-- ==== Sys2Proof/Word.lean ====
section
/-! DEFINITION. The data that crosses RBCRC's ports: bytes, the 16-bit CRC word, the four ports, and the
request record (R7, R49). Counts and indices are natural numbers: the spec's pseudocode computes on naturals of
unbounded width (R8), every stored result fits its register (R78), and "a model on naturals is exact" (D29). That
they fit `IDX_W` bits is checked in WellFormed (operands) and stated as an invariant in Safety (registers). -/

namespace Sys2Proof

/-- A byte is 8 bits (R7). -/
abbrev Byte := BitVec 8

/-- A value of the CRC register, 16 bits (R23). -/
abbrev CrcWord := BitVec 16

/-- The four ports of R49, one agent each (R110). -/
inductive Port where
  | cfg   -- the owner that creates the buffer
  | p     -- the producer
  | c     -- the consumer
  | v     -- the packet engine that needs a CRC
  deriving DecidableEq, Repr

/-- The ports that accept `RB.FREE` and `RB.USED` (R50: CFG, P, C). -/
inductive RbPort where
  | cfg
  | p
  | c
  deriving DecidableEq, Repr

/-- The port an RB status operation is requested at. -/
def RbPort.toPort : RbPort → Port
  | .cfg => .cfg
  | .p => .p
  | .c => .c

/-- One typed operand field of a request record. R49: "a record is a tuple of typed fields"; the spec fixes no serial
form of a command record. -/
inductive Operand where
  | flag (b : Bool)             -- a 1-bit field (`storage_present`, R51)
  | index (v : Nat)             -- an `IDX_W`-bit field (`capacity`, `len`, `max_len`)
  | byte (b : Byte)             -- an 8-bit field (`b`, R55)
  | bytes (bs : List Byte)      -- a byte sequence (`data`, R52; the rest of a packet frame, R56, R57)
  deriving DecidableEq, Repr

/-- A request record (R49): the operation byte, then the operand fields in the order the format lists them. A packet
frame `f` (R56 to R58) is the record with `op = f[0]` and, for SOH and STX, the bytes `f[1 ..]`. -/
structure Record where
  op : Byte
  operands : List Operand
  deriving DecidableEq, Repr

end Sys2Proof
end

