-- ==== Sys2Proof/Config.lean ====
section
/-! DEFINITION. What the spec fixes as constants (R6) and the one open parameter `IDX_W` (R5). The width is a
parameter of a run (R29): State carries it, so that a statement about every state is a statement about every width;
here stand its default and its derived maximum. There is no free value: 93_implementation_defined.md, section 2:
"every result of an accepted request is a function of the state and the schedule". -/

namespace Sys2Proof.Config

/-- The default of the parameter `IDX_W` (R5, D1). -/
def idxWDefault : Nat := 32

/-- `IDX_MAX = 2^IDX_W - 1` (R5). -/
def idxMax (idxW : Nat) : Nat := 2 ^ idxW - 1

/-- `CRC_POLY` (R6). -/
def crcPoly : CrcWord := 0x1021#16

/-- `CRC_INIT` (R6, D16). -/
def crcInit : CrcWord := 0x0000#16

/-- The payload length of an SOH packet (R6). -/
def sohPayload : Nat := 128

/-- The payload length of an STX packet (R6). -/
def stxPayload : Nat := 1024

/-- `SEQ_SUM` (R6). -/
def seqSum : Nat := 0xFF

/-- The control byte values of R6. -/
def soh : Byte := 0x01#8
def stx : Byte := 0x02#8
def eot : Byte := 0x04#8
def ack : Byte := 0x06#8
def nak : Byte := 0x15#8
def can : Byte := 0x18#8
def abort1 : Byte := 0x41#8
def crcReq : Byte := 0x43#8
def abort2 : Byte := 0x61#8

/-- The command operation bytes of R50 (assigned by decision D13). -/
def opRbInit : Byte := 0x10#8
def opRbWrite : Byte := 0x11#8
def opRbRead : Byte := 0x12#8
def opRbFree : Byte := 0x13#8
def opRbUsed : Byte := 0x14#8
def opCrcClr : Byte := 0x20#8
def opCrcUpd : Byte := 0x21#8
def opCrcFin : Byte := 0x22#8

end Sys2Proof.Config
end

