-- ==== Sys2Proof/Syntax.lean ====
section
/-! DEFINITION. The operations of RBCRC, one constructor per row of spec/opcode_table.json (R50). The seven rows of
`PKT.CTL` are seven constructors. -/

namespace Sys2Proof

/-- One request, its operation byte and port turned into a constructor and its operand fields pulled out. -/
inductive Instr where
  /-- `RB.INIT` (0x10, port CFG, R51, R64). -/
  | rbInit (storagePresent : Bool) (capacity : Nat)
  /-- `RB.WRITE` (0x11, port P, R52, R65). -/
  | rbWrite (len : Nat) (data : List Byte)
  /-- `RB.READ` (0x12, port C, R53, R69). -/
  | rbRead (maxLen : Nat)
  /-- `RB.FREE` (0x13, ports CFG, P, C, R54, R73). -/
  | rbFree (port : RbPort)
  /-- `RB.USED` (0x14, ports CFG, P, C, R54, R74). -/
  | rbUsed (port : RbPort)
  /-- `CRC.CLR` (0x20, port V, R54, R84). -/
  | crcClr
  /-- `CRC.UPD` (0x21, port V, R55, R85). -/
  | crcUpd (b : Byte)
  /-- `CRC.FIN` (0x22, port V, R54, R86). -/
  | crcFin
  /-- `PKT.SOH` (0x01, port V, R56, R94): `body` is the frame after its type byte, `f[1 ..]`. -/
  | pktSoh (body : List Byte)
  /-- `PKT.STX` (0x02, port V, R57, R95): `body` is the frame after its type byte, `f[1 ..]`. -/
  | pktStx (body : List Byte)
  /-- `PKT.CTL`, the byte EOT (0x04, port V, R58, R96). -/
  | pktEot
  /-- `PKT.CTL`, the byte ACK (0x06). -/
  | pktAck
  /-- `PKT.CTL`, the byte NAK (0x15). -/
  | pktNak
  /-- `PKT.CTL`, the byte CAN (0x18). -/
  | pktCan
  /-- `PKT.CTL`, the byte ABORT1 (0x41). -/
  | pktAbort1
  /-- `PKT.CTL`, the byte C, the CRC16 request (0x43). -/
  | pktCrcReq
  /-- `PKT.CTL`, the byte ABORT2 (0x61). -/
  | pktAbort2
  deriving DecidableEq, Repr

end Sys2Proof
end

