-- ==== Sys2Proof/WellFormed.lean ====
section
/-! DEFINITION. The check that an operation's operands fit the fields of its format (R51 to R58): an `IDX_W`-bit
field holds `0 .. IDX_MAX`, and `RB.WRITE` carries exactly `len` data bytes (R52, R59). The length of a packet frame is
no matter of form: a frame of the wrong length can be presented, and the operation refuses it (R59, R94, R95). -/

namespace Sys2Proof

/-- A value of an `IDX_W`-bit unsigned field (R51 to R53, R60). -/
def fitsIndex (idxW v : Nat) : Bool := decide (v < 2 ^ idxW)

/-- The operands fit the fields of the operation's format. -/
def Instr.wellFormed (idxW : Nat) : Instr → Bool
  | .rbInit _ capacity => fitsIndex idxW capacity
  | .rbWrite len data => fitsIndex idxW len && decide (data.length = len)
  | .rbRead maxLen => fitsIndex idxW maxLen
  | .rbFree _ => true
  | .rbUsed _ => true
  | .crcClr => true
  | .crcUpd _ => true
  | .crcFin => true
  | .pktSoh _ => true
  | .pktStx _ => true
  | .pktEot => true
  | .pktAck => true
  | .pktNak => true
  | .pktCan => true
  | .pktAbort1 => true
  | .pktCrcReq => true
  | .pktAbort2 => true

end Sys2Proof
end

