-- ==== Sys2Proof/Decode.lean ====
section
/-! DEFINITION. Decoding of a request record at a port (R49, R50, R59 to R62) and the encoder. Decoding is total: every
pair of a port and a record gives an operation or a rejection by name, and it reads no state (R62). -/

namespace Sys2Proof

/-- The formats of 30_encoding.md (R51 to R58). -/
inductive Format where
  | cmdInit
  | cmdWrite
  | cmdRead
  | cmd0
  | cmdByte
  | pktSoh
  | pktStx
  | ctl
  deriving DecidableEq, Repr

/-- The rows of R50, by name: the constructors of `Instr` without their operands. -/
inductive OpName where
  | rbInit | rbWrite | rbRead | rbFree | rbUsed
  | crcClr | crcUpd | crcFin
  | pktSoh | pktStx
  | pktEot | pktAck | pktNak | pktCan | pktAbort1 | pktCrcReq | pktAbort2
  deriving DecidableEq, Repr

/-- The row of R50 that an operation belongs to. -/
def Instr.name : Instr → OpName
  | .rbInit _ _ => .rbInit
  | .rbWrite _ _ => .rbWrite
  | .rbRead _ => .rbRead
  | .rbFree _ => .rbFree
  | .rbUsed _ => .rbUsed
  | .crcClr => .crcClr
  | .crcUpd _ => .crcUpd
  | .crcFin => .crcFin
  | .pktSoh _ => .pktSoh
  | .pktStx _ => .pktStx
  | .pktEot => .pktEot
  | .pktAck => .pktAck
  | .pktNak => .pktNak
  | .pktCan => .pktCan
  | .pktAbort1 => .pktAbort1
  | .pktCrcReq => .pktCrcReq
  | .pktAbort2 => .pktAbort2

/-- One row of the operation byte map. -/
structure OpRow where
  op : Byte
  name : OpName
  format : Format
  ports : List Port
  deriving DecidableEq, Repr

/-- The commands of R50, first table. -/
def commandRows : List OpRow :=
  [ ⟨Config.opRbInit, .rbInit, .cmdInit, [.cfg]⟩,
    ⟨Config.opRbWrite, .rbWrite, .cmdWrite, [.p]⟩,
    ⟨Config.opRbRead, .rbRead, .cmdRead, [.c]⟩,
    ⟨Config.opRbFree, .rbFree, .cmd0, [.cfg, .p, .c]⟩,
    ⟨Config.opRbUsed, .rbUsed, .cmd0, [.cfg, .p, .c]⟩,
    ⟨Config.opCrcClr, .crcClr, .cmd0, [.v]⟩,
    ⟨Config.opCrcUpd, .crcUpd, .cmdByte, [.v]⟩,
    ⟨Config.opCrcFin, .crcFin, .cmd0, [.v]⟩ ]

/-- The packet type bytes of R50, second table. -/
def packetRows : List OpRow :=
  [ ⟨Config.soh, .pktSoh, .pktSoh, [.v]⟩,
    ⟨Config.stx, .pktStx, .pktStx, [.v]⟩,
    ⟨Config.eot, .pktEot, .ctl, [.v]⟩,
    ⟨Config.ack, .pktAck, .ctl, [.v]⟩,
    ⟨Config.nak, .pktNak, .ctl, [.v]⟩,
    ⟨Config.can, .pktCan, .ctl, [.v]⟩,
    ⟨Config.abort1, .pktAbort1, .ctl, [.v]⟩,
    ⟨Config.crcReq, .pktCrcReq, .ctl, [.v]⟩,
    ⟨Config.abort2, .pktAbort2, .ctl, [.v]⟩ ]

/-- The operation byte map of R50. -/
def opTable : List OpRow := commandRows ++ packetRows

/-- The row that `op` has at `port`, if the port accepts it (R49, R61). -/
def lookupRow (port : Port) (op : Byte) : Option OpRow :=
  opTable.find? (fun r => r.op == op && r.ports.contains port)

/-- Decoding of the first byte (R62): one of the operations of R50, or `none` for `invalid`. -/
def lookupOp (port : Port) (op : Byte) : Option OpName := (lookupRow port op).map (·.name)

/-- Why a request is no operation. -/
inductive Reject where
  /-- The operation byte is reserved or not accepted at the port (R61). -/
  | invalidOp
  /-- The operand fields are not those of the operation's format (R51 to R58): no record of the spec. -/
  | malformedRecord
  deriving DecidableEq, Repr

/-- The port as one that accepts the RB status operations. -/
def Port.toRbPort : Port → Option RbPort
  | .cfg => some .cfg
  | .p => some .p
  | .c => some .c
  | .v => none

/-- Answer `i` if its operands fit their fields. -/
def ifWellFormed (idxW : Nat) (i : Instr) : Except Reject Instr :=
  if i.wellFormed idxW then .ok i else .error .malformedRecord

/-- A record of a format whose only field is the operation byte (R54, R58). -/
def noOperands (i : Instr) : List Operand → Except Reject Instr
  | [] => .ok i
  | _ => .error .malformedRecord

/-- A status operation at the port it is requested at (R54). -/
def statusAt (mk : RbPort → Instr) (port : Port) (operands : List Operand) : Except Reject Instr :=
  match port.toRbPort with
  | some q => noOperands (mk q) operands
  | none => .error .invalidOp

/-- Operand assembly (R60): the fields of the format, in order, as they are. -/
def assembleRecord (idxW : Nat) (port : Port) (name : OpName) (operands : List Operand) : Except Reject Instr :=
  match name with
  | .rbInit =>
    match operands with
    | [.flag sp, .index capacity] => ifWellFormed idxW (.rbInit sp capacity)
    | _ => .error .malformedRecord
  | .rbWrite =>
    match operands with
    | [.index len, .bytes data] => ifWellFormed idxW (.rbWrite len data)
    | _ => .error .malformedRecord
  | .rbRead =>
    match operands with
    | [.index maxLen] => ifWellFormed idxW (.rbRead maxLen)
    | _ => .error .malformedRecord
  | .rbFree => statusAt .rbFree port operands
  | .rbUsed => statusAt .rbUsed port operands
  | .crcClr => noOperands .crcClr operands
  | .crcUpd =>
    match operands with
    | [.byte b] => .ok (.crcUpd b)
    | _ => .error .malformedRecord
  | .crcFin => noOperands .crcFin operands
  | .pktSoh =>
    match operands with
    | [.bytes body] => .ok (.pktSoh body)
    | _ => .error .malformedRecord
  | .pktStx =>
    match operands with
    | [.bytes body] => .ok (.pktStx body)
    | _ => .error .malformedRecord
  | .pktEot => noOperands .pktEot operands
  | .pktAck => noOperands .pktAck operands
  | .pktNak => noOperands .pktNak operands
  | .pktCan => noOperands .pktCan operands
  | .pktAbort1 => noOperands .pktAbort1 operands
  | .pktCrcReq => noOperands .pktCrcReq operands
  | .pktAbort2 => noOperands .pktAbort2 operands

/-- Decode a request record at a port, for the width `IDX_W`. The first byte alone decides the operation (R59, R62). -/
def decode (idxW : Nat) (port : Port) (r : Record) : Except Reject Instr :=
  match lookupOp port r.op with
  | some name => assembleRecord idxW port name r.operands
  | none => .error .invalidOp

/-- The port an operation is requested at and its record (R50 to R58). -/
def encode : Instr → Port × Record
  | .rbInit sp capacity => (.cfg, ⟨Config.opRbInit, [.flag sp, .index capacity]⟩)
  | .rbWrite len data => (.p, ⟨Config.opRbWrite, [.index len, .bytes data]⟩)
  | .rbRead maxLen => (.c, ⟨Config.opRbRead, [.index maxLen]⟩)
  | .rbFree q => (q.toPort, ⟨Config.opRbFree, []⟩)
  | .rbUsed q => (q.toPort, ⟨Config.opRbUsed, []⟩)
  | .crcClr => (.v, ⟨Config.opCrcClr, []⟩)
  | .crcUpd b => (.v, ⟨Config.opCrcUpd, [.byte b]⟩)
  | .crcFin => (.v, ⟨Config.opCrcFin, []⟩)
  | .pktSoh body => (.v, ⟨Config.soh, [.bytes body]⟩)
  | .pktStx body => (.v, ⟨Config.stx, [.bytes body]⟩)
  | .pktEot => (.v, ⟨Config.eot, []⟩)
  | .pktAck => (.v, ⟨Config.ack, []⟩)
  | .pktNak => (.v, ⟨Config.nak, []⟩)
  | .pktCan => (.v, ⟨Config.can, []⟩)
  | .pktAbort1 => (.v, ⟨Config.abort1, []⟩)
  | .pktCrcReq => (.v, ⟨Config.crcReq, []⟩)
  | .pktAbort2 => (.v, ⟨Config.abort2, []⟩)

/-! ## Byte-serial frames and the words of the opcode table -/

/-- The record of a byte-serial packet frame presented at port V (R56 to R59): `frame[0]` is the operation byte, and
only SOH and STX have a body field. An empty frame is no request. A frame whose first byte is no packet type byte gives
the record of that byte as it stands (DESIGN CHOICE, log entry 17: R63 names packet frames alone). -/
def recordOfFrame : List Byte → Option Record
  | [] => none
  | t :: rest =>
    if t = Config.soh ∨ t = Config.stx then some ⟨t, [.bytes rest]⟩
    else if rest = [] then some ⟨t, []⟩
    else some ⟨t, [.bytes rest]⟩

/-- The port a word of the opcode table is presented at: the first of CFG, P, C, V that accepts its operation byte
(each byte of R50 is accepted at one port, or at CFG, P and C); V where none does. -/
def tablePort (op : Byte) : Port :=
  ([Port.cfg, .p, .c].find? (fun q => (lookupRow q op).isSome)).getD .v

/-- Byte `k` of a word, byte 0 the least significant. -/
def wordByte (w k : Nat) : Byte := BitVec.ofNat 8 (w >>> (8 * k))

/-- The operand fields that the bits of `w` above the operation byte stand for. Only the byte fields have a place in
a word (R49: a command record has no serial form); the opcode table gives every row its operation byte alone, and
there every operand is zero. -/
def tableOperands (w : Nat) : Format → List Operand
  | .cmdInit => [.flag false, .index 0]
  | .cmdWrite => [.index 0, .bytes []]
  | .cmdRead => [.index 0]
  | .cmd0 => []
  | .cmdByte => [.byte (wordByte w 1)]
  | .pktSoh => [.bytes ((List.range (Config.sohPayload + 4)).map (fun k => wordByte w (k + 1)))]
  | .pktStx => [.bytes ((List.range (Config.stxPayload + 4)).map (fun k => wordByte w (k + 1)))]
  | .ctl => []

/-- The record of an instruction of the opcode table whose bits are `w`, the bits from `nbits` up being zero. -/
def tableRecord (nbits w : Nat) : Record :=
  let bits := w % 2 ^ nbits
  let op := wordByte bits 0
  match lookupRow (tablePort op) op with
  | some row => ⟨op, tableOperands bits row.format⟩
  | none => ⟨op, []⟩

/-- What the decoder reads from a word of the opcode table. -/
def decodeTableWord (nbits w : Nat) : Option Instr :=
  let r := tableRecord nbits w
  match decode Config.idxWDefault (tablePort r.op) r with
  | .ok i => some i
  | .error _ => none

end Sys2Proof
end

