-- ==== Sys2Proof/Machine/State.lean ====
section
/-! DEFINITION. The state of RBCRC (R13, one field per row), the model's own fields beside it, the reasons a step can
stop, and the state after reset (R30, R114). "Holds no value" of the spec is `none` (93_implementation_defined.md,
section 2: "the model's state has no value there (an option type, not 0)"). -/

namespace Sys2Proof.Machine

/-- The registers and latches that can hold no value, named where a read of one is refused. -/
inductive Register where
  | rbCap
  | rbWr
  | rbRd
  | rbFree
  | pData
  deriving DecidableEq, Repr

/-- Why a step stops the machine. RBCRC has no trap (R104) and no fault of its own; these mark states that no run
reaches (the invariant of Safety.lean rules them out). -/
inductive Fault where
  /-- `STORE[addr]` with `addr >= RB_CAP`: no such cell (R34 to R36). Raised by `storeRead` and `storeWrite`. Safe: the
  model stops where the spec gives no meaning. -/
  | noSuchCell (addr : Nat)
  /-- The free count would leave `0 .. RB_CAP` (R24, R78). Raised by `usedCount`, `takeFree` and `giveFree`. Safe: the
  model stops where the spec gives no value. -/
  | countOutOfRange
  deriving DecidableEq, Repr

/-- Why a request or step has no meaning. The first six are the spec's own (R109); `step` keeps a mark of each and goes
on. -/
inductive Refusal where
  /-- R109. Raised by `RB.WRITE`, `RB.READ`, `RB.FREE`, `RB.USED` while `RB_INITED = 0`. Safe. -/
  | useBeforeInit
  /-- R109. Raised by `RB.INIT` while a write or a read is in flight. Safe. -/
  | initWhileBusy
  /-- R109. Raised by a request on port P or C while that port's phase latch is not `IDLE`. Safe. -/
  | portBusy
  /-- R109. Raised by decoding: the operation byte is reserved or not accepted at the port (R61). Safe. -/
  | invalidOp
  /-- R109. Raised by `PKT.SOH`, `PKT.STX`: the frame is not exactly 133 or 1029 bytes (R59). Safe. -/
  | badFrameLength
  /-- R109. Raised by `CRC.UPD`, `CRC.FIN` while `CRC_ACC` holds no value. Safe. -/
  | unwrittenAccumulator
  /-- A request whose operand fields are not those of its operation's format: no record of the spec (R49 to R58).
  Raised by decoding. Safe: the run stops. -/
  | malformedRecord
  /-- A register that holds no value is read (93_implementation_defined.md, section 2: "any read of it is a
  refusal"). Raised by `readRegister` and `pCopy`; no run reaches it. Safe: the run stops. -/
  | holdsNoValue (r : Register)
  /-- A store cell that holds no value is read (R35). Raised by `storeRead`; no run reaches it (R31). Safe: the run
  stops. -/
  | cellHoldsNoValue (addr : Nat)
  /-- A step of an operation in flight whose `requires` line does not hold (R67, R68, R71, R72). Raised by `pCopy`,
  `pCommit`, `cCopy`, `cCommit`; no run reaches it. Safe: the run stops. -/
  | stepNotEnabled
  /-- An instruction that has no meaning yet. Raised by `exec` alone. Safe. -/
  | notModelled (mnemonic : String)
  deriving DecidableEq, Repr

/-- The `status` of `RB.INIT` (R51, R101). -/
inductive Status where
  | ok
  | invalidArgument
  deriving DecidableEq, Repr

/-- The `verdict` of a packet check (R102). -/
inductive Verdict where
  | accept
  | rejectSeq
  | rejectCrc
  | noCheck
  deriving DecidableEq, Repr

/-- A result record (R51 to R58). `CRC.CLR` and `CRC.UPD` have none (R54, R55). -/
inductive Result where
  | status (s : Status)                                              -- `RB.INIT`
  | written (n : Nat)                                                -- `RB.WRITE`
  | read (n : Nat) (data : List Byte)                                -- `RB.READ`
  | count (n : Nat)                                                  -- `RB.FREE`, `RB.USED`
  | crc (v : CrcWord)                                                -- `CRC.FIN`
  | packet (verdict : Verdict) (seq : Byte) (plen : BitVec 16)       -- `PKT.SOH`, `PKT.STX`, `PKT.CTL`
  deriving DecidableEq, Repr

/-- A result record on the port that issued the operation (R104). -/
structure Delivery where
  port : Port
  result : Result
  deriving DecidableEq, Repr

/-- The mark of a refused request (R109: "keep a mark that it happened"). -/
structure Mark where
  port : Port
  name : Refusal
  deriving DecidableEq, Repr

/-- The latches of a write in flight (R21). -/
structure WriteLatch where
  len : Nat             -- `P_LEN`
  data : List Byte      -- `P_DATA[0 .. P_LEN-1]`
  n : Nat               -- `P_N`
  i : Nat               -- `P_I`
  deriving DecidableEq, Repr

/-- The latches of a read in flight (R22). -/
structure ReadLatch where
  maxLen : Nat          -- `C_MAX`
  n : Nat               -- `C_N`
  i : Nat               -- `C_I`
  data : List Byte      -- `C_DATA[0 .. C_I-1]`
  deriving DecidableEq, Repr

/-- `P_PHASE` with the latches that hold a value while it is `COPY` (R21). -/
inductive WritePhase where
  | idle
  | copy (l : WriteLatch)
  deriving DecidableEq, Repr

/-- `C_PHASE` with the latches that hold a value while it is `COPY` (R22). -/
inductive ReadPhase where
  | idle
  | copy (l : ReadLatch)
  deriving DecidableEq, Repr

/-- The agents whose operations have more than one step (R65, R69). -/
inductive DataAgent where
  | p
  | c
  deriving DecidableEq, Repr

/-- One element of a schedule (R29, R44): a request is issued at a port, agent P or C takes the next step of its
operation in flight, or reset occurs (R114: "at any point of a run, between two steps"). -/
inductive Event where
  | request (port : Port) (r : Record)
  | advance (a : DataAgent)
  | reset
  deriving DecidableEq, Repr

/-- The backing store: the cells that hold a value, addresses strictly rising. A cell not listed holds no value
(R19, D26). -/
abbrev Memory := List Host.Cell

/-- The machine. The first nine fields are the rows of R13; the last four are the model's own. -/
structure State where
  rbInited : Bool                 -- `RB_INITED` (R14)
  rbCap : Option Nat              -- `RB_CAP` (R15)
  rbWr : Option Nat               -- `RB_WR` (R16)
  rbRd : Option Nat               -- `RB_RD` (R17)
  rbFree : Option Nat             -- `RB_FREE` (R18)
  store : Memory                  -- `STORE` (R19)
  portP : WritePhase              -- `P_PHASE`, `P_LEN`, `P_DATA`, `P_N`, `P_I` (R21)
  portC : ReadPhase               -- `C_PHASE`, `C_MAX`, `C_N`, `C_I`, `C_DATA` (R22)
  crcAcc : Option CrcWord         -- `CRC_ACC` (R23)
  idxW : Nat                      -- the parameter `IDX_W` of the run (R5, R29); no step changes it
  agenda : List Event             -- the requests and the schedule still to come (R29), first one next
  results : List Delivery         -- the result records delivered so far, oldest first (R104)
  refusals : List Mark            -- the refused requests so far, oldest first (R109)
  deriving DecidableEq, Repr

/-- The state after reset (R30, R114): `RB_INITED` is 0, both phases are `IDLE`, everything else holds no value. The
width has its default (R5), nothing is scheduled, delivered or refused. -/
def State.reset : State where
  rbInited := false
  rbCap := none
  rbWr := none
  rbRd := none
  rbFree := none
  store := []
  portP := .idle
  portC := .idle
  crcAcc := none
  idxW := Config.idxWDefault
  agenda := []
  results := []
  refusals := []

end Sys2Proof.Machine
end

