-- ==== Sys2Proof/Machine/Ops.lean ====
section
/-! DEFINITION. The named operations over registers, store, latches and results that the meanings are made of.
RBCRC takes no exception: an error result is delivered like a success result (R104) by `State.deliver`, and a refused
request changes no state and leaves a mark (R109) by `State.mark`. -/

namespace Sys2Proof.Machine

/-- The outcome of an operation of this machine that answers an `α`. -/
abbrev Res (α : Type) := Host.Outcome α Fault Refusal

/-- Go on with the value of a completed operation; a fault or a refusal ends the whole. -/
def andThen {α β : Type} (x : Res α) (k : α → Res β) : Res β :=
  match x with
  | .next a => k a
  | .fault f => .fault f
  | .refused r => .refused r

/-! ## Updates of the state -/

/-- Deliver a result record on the port that issued the operation (R104). -/
def State.deliver (s : State) (port : Port) (r : Result) : State :=
  { s with results := s.results ++ [⟨port, r⟩] }

/-- Keep the mark of a refused request (R109). -/
def State.mark (s : State) (port : Port) (r : Refusal) : State :=
  { s with refusals := s.refusals ++ [⟨port, r⟩] }

/-- The schedule still to come becomes `es`. -/
def State.withAgenda (s : State) (es : List Event) : State := { s with agenda := es }

/-- The writes of a successful `RB.INIT` (R64): the store has `cap` cells, each holding no value. -/
def State.initBuffer (s : State) (cap : Nat) : State :=
  { s with
    rbInited := true
    rbCap := some cap
    rbFree := some cap
    rbWr := some 0
    rbRd := some 0
    store := [] }

def State.setPortP (s : State) (ph : WritePhase) : State := { s with portP := ph }

def State.setPortC (s : State) (ph : ReadPhase) : State := { s with portC := ph }

def State.setStore (s : State) (m : Memory) : State := { s with store := m }

def State.setCrc (s : State) (c : CrcWord) : State := { s with crcAcc := some c }

/-- The atomic bookkeeping of a write commit (R42, R68): index and free count in one step. -/
def State.bookWrite (s : State) (wr free : Nat) : State := { s with rbWr := some wr, rbFree := some free }

/-- The atomic bookkeeping of a read commit (R42, R72): index and free count in one step. -/
def State.bookRead (s : State) (rd free : Nat) : State := { s with rbRd := some rd, rbFree := some free }

/-- Reset (R114): every piece of the block's state to the value of R30. The width, the schedule, the results already
delivered and the marks already kept are not the block's and stay. -/
def State.resetBlock (s : State) : State :=
  { State.reset with idxW := s.idxW, agenda := s.agenda, results := s.results, refusals := s.refusals }

/-! ## Registers -/

/-- One atomic read of a register (R43). While the register holds no value "any read of it is a refusal"
(93_implementation_defined.md, section 2); no run reaches that (R30, R116). -/
def readRegister (name : Register) (v : Option Nat) : Res Nat :=
  match v with
  | some x => .next x
  | none => .refused (.holdsNoValue name)

def State.readCap (s : State) : Res Nat := readRegister .rbCap s.rbCap

def State.readWr (s : State) : Res Nat := readRegister .rbWr s.rbWr

def State.readRd (s : State) : Res Nat := readRegister .rbRd s.rbRd

def State.readFree (s : State) : Res Nat := readRegister .rbFree s.rbFree

/-- One atomic read of `CRC_ACC` (R43). "Refusals: `UnwrittenAccumulator` if `CRC_ACC` holds no value" (R85, and R86 "as
for `CRC.UPD`"; R30, R109, R116). -/
def State.readAcc (s : State) : Res CrcWord :=
  match s.crcAcc with
  | some c => .next c
  | none => .refused .unwrittenAccumulator

/-! ## Conditions of the requests (R109) -/

/-- `requires RB_INITED = 1`. -/
def requireInit (s : State) : Res Unit :=
  if s.rbInited then .next () else .refused .useBeforeInit

/-- A write is in flight (`P_PHASE != IDLE`). -/
def State.busyP (s : State) : Bool := decide (s.portP ≠ .idle)

/-- A read is in flight (`C_PHASE != IDLE`). -/
def State.busyC (s : State) : Bool := decide (s.portC ≠ .idle)

/-- A request is in flight at the port. Operations of ports CFG and V are single steps (R27), so they never are. -/
def State.busyAt (s : State) : RbPort → Bool
  | .cfg => false
  | .p => s.busyP
  | .c => s.busyC

/-- A port carries one request at a time (R49). -/
def requirePortIdle (port : RbPort) (s : State) : Res Unit :=
  if s.busyAt port then .refused .portBusy else .next ()

/-- `RB.INIT` is refused while a write or a read is in flight (R64, R120). -/
def requireBothIdle (s : State) : Res Unit :=
  if s.busyP || s.busyC then .refused .initWhileBusy else .next ()

/-! ## Counts (R20, R78) -/

/-- `USED = RB_CAP - RB_FREE` (R20), which never goes below zero (R24). -/
def usedCount (cap free : Nat) : Res Nat :=
  if free ≤ cap then .next (cap - free) else .fault .countOutOfRange

/-- `RB_FREE - P_N`, which never goes below zero (R68, INV5). -/
def takeFree (free n : Nat) : Res Nat :=
  if n ≤ free then .next (free - n) else .fault .countOutOfRange

/-- `RB_FREE + C_N`, which never exceeds `RB_CAP` (R72, INV6). -/
def giveFree (cap free n : Nat) : Res Nat :=
  if free + n ≤ cap then .next (free + n) else .fault .countOutOfRange

/-! ## The store -/

/-- The byte that cell `a` holds, if it holds a value. -/
def Memory.read (m : Memory) (a : Nat) : Option Byte :=
  match m with
  | [] => none
  | (b, v) :: rest => if a = b then some v else Memory.read rest a

/-- Write one cell, keeping the addresses strictly rising. -/
def Memory.write (m : Memory) (a : Nat) (v : Byte) : Memory :=
  match m with
  | [] => [(a, v)]
  | (b, w) :: rest =>
    if a < b then (a, v) :: (b, w) :: rest
    else if a = b then (a, v) :: rest
    else (b, w) :: Memory.write rest a v

/-- The canonical form: addresses strictly rising. An unlisted cell holds no value and a listed one a byte, so no
entry can equal what an unlisted cell reads as. -/
def Memory.wf (m : Memory) : Bool :=
  match m with
  | [] => true
  | (a, _) :: rest => rest.all (fun c => decide (a < c.1)) && Memory.wf rest

/-- `MemRead(addr, 1)` (R35). -/
def storeRead (addr : Nat) (s : State) : Res Byte :=
  andThen (requireInit s) fun _ =>
  andThen s.readCap fun cap =>
  if addr < cap then
    match s.store.read addr with
    | some b => .next b
    | none => .refused (.cellHoldsNoValue addr)
  else .fault (.noSuchCell addr)

/-- `MemWrite(addr, 1, v)` (R36). -/
def storeWrite (addr : Nat) (v : Byte) (s : State) : Res State :=
  andThen (requireInit s) fun _ =>
  andThen s.readCap fun cap =>
  if addr < cap then .next (s.setStore (s.store.write addr v))
  else .fault (.noSuchCell addr)

/-! ## Refused requests -/

/-- The six refusals of R109. -/
def Refusal.ofSpec : Refusal → Bool
  | .useBeforeInit => true
  | .initWhileBusy => true
  | .portBusy => true
  | .invalidOp => true
  | .badFrameLength => true
  | .unwrittenAccumulator => true
  | _ => false

/-- What the block does with the outcome of a request issued at `port` in state `s`: a request refused by R109 "has no
result and changes no state", its mark is kept, and the run goes on (R109, program P6); any other outcome stands. -/
def settle (port : Port) (s : State) (o : Res State) : Res State :=
  match o with
  | .next t => .next t
  | .fault f => .fault f
  | .refused r => if r.ofSpec then .next (s.mark port r) else .refused r

/-- The refusal of a request that decodes to no operation (R61). -/
def rejectRefusal : Reject → Refusal
  | .invalidOp => .invalidOp
  | .malformedRecord => .malformedRecord

end Sys2Proof.Machine
end

