-- ==== Sys2Proof/Machine/Operands.lean ====
section
/-! DEFINITION. Operand forms: the effective index and the wrap split of the store (R37, R38), the byte counts of a
write and a read (R66, R70), and the assembly of a packet's fields (R60). -/

namespace Sys2Proof.Machine

/-- The effective index `ea(base, k) = (base + k) mod RB_CAP`, the sum formed with its carry (R37, D29). -/
def ea (cap base k : Nat) : Nat := (base + k) % cap

/-- The advanced index of a commit, `(index + n) mod RB_CAP` (R68, R72). -/
def advanceIndex (cap index n : Nat) : Nat := (index + n) % cap

/-- The cells of a copy of `n` bytes from `base`, in stream order (R37). -/
def copyCells (cap base n : Nat) : List Nat := (List.range n).map (ea cap base)

/-- The sizes of the two moves of a copy (R38): `k1 = min(n, RB_CAP - b)`, `k2 = n - k1`. -/
def wrapSplit (cap base n : Nat) : Nat × Nat :=
  let k1 := min n (cap - base)
  (k1, n - k1)

/-- The cells of the two contiguous moves of R38: `b .. b+k1-1`, then `0 .. k2-1`. -/
def splitCells (cap base n : Nat) : List Nat :=
  List.range' base (wrapSplit cap base n).1 ++ List.range (wrapSplit cap base n).2

/-- The number of bytes a write accepts: `min(len, f)` for the free count `f` of its snapshot (R66). -/
def acceptCount (len free : Nat) : Nat := min len free

/-- The number of bytes a read delivers: `min(USED, max_len)` at its snapshot (R70). -/
def deliverCount (used maxLen : Nat) : Nat := min used maxLen

/-- The net store effect of copying `bs` to the cells from `base` on (R65): byte `k` to cell `ea(base, k)`, in
ascending `k`. -/
def writeCells (cap base : Nat) (bs : List Byte) (m : Memory) : Memory :=
  match bs with
  | [] => m
  | b :: rest => writeCells cap (base + 1) rest (m.write (base % cap) b)

/-- The fields of an SOH or STX packet frame (R56, R57, R60). -/
structure PacketFields where
  seq : Byte
  cseq : Byte
  payload : List Byte
  crcRx : CrcWord
  deriving DecidableEq, Repr

/-- Assembly of the fields of a frame with an `n`-byte payload (R60): `seq = f[1]`, `cseq = f[2]`,
`payload = f[3 .. 3+n-1]`, `crc_rx` the two bytes after it, high byte first (R39). A frame that is not exactly `n + 5`
bytes long has none (R59). -/
def assemblePacket (n : Nat) (frame : List Byte) : Option PacketFields :=
  match frame with
  | _ :: seq :: cseq :: rest =>
    match rest.drop n with
    | [hi, lo] => some ⟨seq, cseq, rest.take n, hi ++ lo⟩
    | _ => none
  | _ => none

end Sys2Proof.Machine
end

