-- ==== Sys2Proof/Machine/Flags.lean ====
section
/-! DEFINITION. RBCRC has no stored flags (R28). What stands in their place are computed values: the two checks of a
packet and the verdict (R92, R93, R97), the numeric result codes (R101, R102), and the predicates full and empty
(R26), which no register holds. -/

namespace Sys2Proof.Machine

/-- `seq_ok`: the sum formed as a natural number is 0xFF (R92). -/
def seqOk (f : PacketFields) : Bool := decide (f.seq.toNat + f.cseq.toNat = Config.seqSum)

/-- `crc_ok`: all 16 bits of the computed CRC equal the trailer (R93). -/
def crcOk (f : PacketFields) (c : CrcWord) : Bool := decide (c = f.crcRx)

/-- The verdict: the sequence check decides first, the CRC check second (R94, R97). -/
def verdictOf (f : PacketFields) (c : CrcWord) : Verdict :=
  if seqOk f then (if crcOk f c then .accept else .rejectCrc) else .rejectSeq

/-- The `status` codes of R101. -/
def Status.code : Status → Byte
  | .ok => 0x00#8
  | .invalidArgument => 0x01#8

/-- The `verdict` codes of R102. -/
def Verdict.code : Verdict → Byte
  | .accept => 0x00#8
  | .rejectSeq => 0x01#8
  | .rejectCrc => 0x02#8
  | .noCheck => 0x03#8

/-- Empty: `RB_FREE = RB_CAP` (R26). A predicate; RBCRC has no empty flag. -/
def isEmpty (cap free : Nat) : Bool := decide (free = cap)

/-- Full: `RB_FREE = 0` (R26). A predicate; RBCRC has no full flag. -/
def isFull (free : Nat) : Bool := decide (free = 0)

end Sys2Proof.Machine
end

