-- ==== Sys2Proof/Machine/Crc.lean ====
section
/-! DEFINITION. Unit CRC: the function (R81, R82) and its streaming operations (R84 to R86). -/

namespace Sys2Proof.Machine

/-- One bit step of R81: the register shifts left by one, the message bit `m` enters at bit 0, and the polynomial is
applied when a 1 left bit 15. -/
def crcBit (c : CrcWord) (m : Bool) : CrcWord :=
  if c.getLsbD 15 then c.shiftConcat m ^^^ Config.crcPoly else c.shiftConcat m

/-- `crc_update(c, b)`: the eight bits of `b`, most significant first (R81, D15). -/
def crcUpdate (c : CrcWord) (b : Byte) : CrcWord :=
  [7, 6, 5, 4, 3, 2, 1, 0].foldl (fun acc i => crcBit acc (b.getLsbD i)) c

/-- Go on with the value of `c`, computed first: `crcThen c k = k c` (Laws/Crc.lean, `crcThen_eq`). It is written so
that Lean's kernel evaluates a long payload byte by byte and not as one deeply nested term. -/
def crcThen {α : Type} (c : CrcWord) (k : CrcWord → α) : α :=
  match c.toNat with
  | 0 => k 0#16
  | n + 1 => k (BitVec.ofNat 16 (n + 1))

/-- The bytes of `d`, in order, through `crc_update`: the loop of R82. -/
def crcFeed (c : CrcWord) (d : List Byte) : CrcWord :=
  match d with
  | [] => c
  | b :: rest => crcThen (crcUpdate c b) fun c' => crcFeed c' rest

/-- `CRC_AUG`: the two trailing zero bytes "fed through the same update function" (R6, R82). -/
def crcFinish (c : CrcWord) : CrcWord := crcUpdate (crcUpdate c 0x00#8) 0x00#8

/-- `crc16(d)` (R82). -/
def crc16 (d : List Byte) : CrcWord := crcFinish (crcFeed Config.crcInit d)

/-- The byte-wise form of R83, item 2, that uses no trailing zeros; for cross-checking only. -/
def crcDirectByte (c : CrcWord) (b : Byte) : CrcWord :=
  (List.range 8).foldl (fun acc _ => crcBit acc false) (c ^^^ (b ++ 0x00#8))

/-- `crc16_direct(d)` (R83, item 2). -/
def crc16Direct (d : List Byte) : CrcWord := d.foldl crcDirectByte 0x0000#16

/-- The trailer bytes of a payload, high byte first (R88). -/
def trailer (p : List Byte) : List Byte := [(crc16 p).extractLsb' 8 8, (crc16 p).extractLsb' 0 8]

/-- `CRC.CLR` (R84). It has no result record. -/
def execCrcClr (s : State) : Res State := .next (s.setCrc Config.crcInit)

/-- `CRC.UPD` (R85). It has no result record. -/
def execCrcUpd (b : Byte) (s : State) : Res State :=
  andThen s.readAcc fun c => .next (s.setCrc (crcUpdate c b))

/-- `CRC.FIN` (R86): the accumulator keeps the finished value. -/
def execCrcFin (s : State) : Res State :=
  andThen s.readAcc fun c => .next ((s.setCrc (crcFinish c)).deliver .v (.crc (crcFinish c)))

end Sys2Proof.Machine
end

