-- ==== Sys2Proof/Machine/Packet.lean ====
section
/-! DEFINITION. The packet check of unit CRC (R91 to R97): `PKT.SOH`, `PKT.STX` and the seven control bytes of
`PKT.CTL`. -/

namespace Sys2Proof.Machine

/-- The check of one packet with an `n`-byte payload (R94, R95): the CRC of the payload is left in `CRC_ACC` whatever
the verdict (D17, D18). A frame of the wrong length is refused before either check (R103). -/
def checkPacket (type : Byte) (n : Nat) (body : List Byte) (s : State) : Res State :=
  match assemblePacket n (type :: body) with
  | none => .refused .badFrameLength
  | some f =>
    .next ((s.setCrc (crc16 f.payload)).deliver .v
      (.packet (verdictOf f (crc16 f.payload)) f.seq (BitVec.ofNat 16 n)))

/-- `PKT.SOH` (R94). -/
def execPktSoh (body : List Byte) (s : State) : Res State := checkPacket Config.soh Config.sohPayload body s

/-- `PKT.STX` (R95). -/
def execPktStx (body : List Byte) (s : State) : Res State := checkPacket Config.stx Config.stxPayload body s

/-- A control byte at port V (R96): it has nothing to check, and no state is read or written. -/
def controlByte (s : State) : Res State := .next (s.deliver .v (.packet .noCheck 0x00#8 0#16))

/-- `PKT.CTL`, EOT (R96). -/
def execPktEot (s : State) : Res State := controlByte s

/-- `PKT.CTL`, ACK (R96). -/
def execPktAck (s : State) : Res State := controlByte s

/-- `PKT.CTL`, NAK (R96). -/
def execPktNak (s : State) : Res State := controlByte s

/-- `PKT.CTL`, CAN (R96). -/
def execPktCan (s : State) : Res State := controlByte s

/-- `PKT.CTL`, ABORT1 (R96). -/
def execPktAbort1 (s : State) : Res State := controlByte s

/-- `PKT.CTL`, C (R96). -/
def execPktCrcReq (s : State) : Res State := controlByte s

/-- `PKT.CTL`, ABORT2 (R96). -/
def execPktAbort2 (s : State) : Res State := controlByte s

end Sys2Proof.Machine
end

