-- ==== Sys2Proof/Machine/RingBuffer.lean ====
section
/-! DEFINITION. Unit RB: the five operations (R64, R65, R69, R73, R74) and the steps of the two that are not atomic
(R66 to R68, R70 to R72). Issuing a write or a read IS its snapshot step; its copy steps and its commit are taken by
its agent afterwards, and any step of another agent may fall between them (R44). -/

namespace Sys2Proof.Machine

/-- `RB.INIT`, one atomic step (R64). The refusal is tested before the operands (R103); a failed init changes no
state (R101, D11). -/
def execRbInit (storagePresent : Bool) (capacity : Nat) (s : State) : Res State :=
  andThen (requireBothIdle s) fun _ =>
  if storagePresent = false ∨ capacity = 0 then .next (s.deliver .cfg (.status .invalidArgument))
  else .next ((s.initBuffer capacity).deliver .cfg (.status .ok))

/-! ## A write in flight -/

/-- Step `P.snap` (R66): one atomic read of the free count fixes how many bytes the write accepts. -/
def pSnap (len : Nat) (data : List Byte) (s : State) : Res State :=
  andThen (requireInit s) fun _ =>
  andThen (requirePortIdle .p s) fun _ =>
  andThen s.readFree fun f =>
  .next (s.setPortP (.copy ⟨len, data, acceptCount len f, 0⟩))

/-- `RB.WRITE` (R65): its issue is the step `P.snap`. -/
def execRbWrite (len : Nat) (data : List Byte) (s : State) : Res State := pSnap len data s

/-- One byte of the write's data, `P_DATA[P_I]`. The latch holds bytes `0 .. P_LEN-1` alone (R21), and a read of what
holds no value is a refusal (93_implementation_defined.md, section 2); no run reaches it (INV5). -/
def WriteLatch.current (l : WriteLatch) : Res Byte :=
  match l.data[l.i]? with
  | some b => .next b
  | none => .refused (.holdsNoValue .pData)

/-- Step `P.copy` (R67): byte `P_I` to the cell `ea(RB_WR, P_I)`. -/
def pCopy (l : WriteLatch) (s : State) : Res State :=
  if l.i < l.n then
    andThen s.readCap fun cap =>
    andThen s.readWr fun wr =>
    andThen l.current fun b =>
    andThen (storeWrite (ea cap wr l.i) b s) fun t =>
    .next (t.setPortP (.copy { l with i := l.i + 1 }))
  else .refused .stepNotEnabled

/-- Step `P.commit` (R68): the bookkeeping, from the current free count and not the snapshot's. -/
def pCommit (l : WriteLatch) (s : State) : Res State :=
  if l.i = l.n then
    andThen s.readCap fun cap =>
    andThen s.readWr fun wr =>
    andThen s.readFree fun free =>
    andThen (takeFree free l.n) fun free' =>
    .next (((s.bookWrite (advanceIndex cap wr l.n) free').setPortP .idle).deliver .p (.written l.n))
  else .refused .stepNotEnabled

/-- Agent P's next step: a copy while bytes are left, then the commit (R44, R45). With no write in flight there is no
step to take and nothing happens. -/
def advanceP (s : State) : Res State :=
  match s.portP with
  | .idle => .next s
  | .copy l => if l.i < l.n then pCopy l s else pCommit l s

/-! ## A read in flight -/

/-- Step `C.snap` (R70): one atomic read of the free count fixes how many bytes the read delivers. -/
def cSnap (maxLen : Nat) (s : State) : Res State :=
  andThen (requireInit s) fun _ =>
  andThen (requirePortIdle .c s) fun _ =>
  andThen s.readFree fun f =>
  andThen s.readCap fun cap =>
  andThen (usedCount cap f) fun used =>
  .next (s.setPortC (.copy ⟨maxLen, deliverCount used maxLen, 0, []⟩))

/-- `RB.READ` (R69): its issue is the step `C.snap`. -/
def execRbRead (maxLen : Nat) (s : State) : Res State := cSnap maxLen s

/-- Step `C.copy` (R71): the byte of cell `ea(RB_RD, C_I)` becomes `C_DATA[C_I]`. -/
def cCopy (l : ReadLatch) (s : State) : Res State :=
  if l.i < l.n then
    andThen s.readCap fun cap =>
    andThen s.readRd fun rd =>
    andThen (storeRead (ea cap rd l.i) s) fun b =>
    .next (s.setPortC (.copy { l with i := l.i + 1, data := l.data ++ [b] }))
  else .refused .stepNotEnabled

/-- Step `C.commit` (R72): the bookkeeping; the cells become free only here. -/
def cCommit (l : ReadLatch) (s : State) : Res State :=
  if l.i = l.n then
    andThen s.readCap fun cap =>
    andThen s.readRd fun rd =>
    andThen s.readFree fun free =>
    andThen (giveFree cap free l.n) fun free' =>
    .next (((s.bookRead (advanceIndex cap rd l.n) free').setPortC .idle).deliver .c (.read l.n (l.data.take l.n)))
  else .refused .stepNotEnabled

/-- Agent C's next step: a copy while bytes are left, then the commit (R44, R45). With no read in flight there is no
step to take and nothing happens. -/
def advanceC (s : State) : Res State :=
  match s.portC with
  | .idle => .next s
  | .copy l => if l.i < l.n then cCopy l s else cCommit l s

/-! ## Status reads -/

/-- `RB.FREE`, one atomic step (R73). -/
def execRbFree (port : RbPort) (s : State) : Res State :=
  andThen (requireInit s) fun _ =>
  andThen (requirePortIdle port s) fun _ =>
  andThen s.readFree fun free =>
  .next (s.deliver port.toPort (.count free))

/-- `RB.USED`, one atomic step (R74). -/
def execRbUsed (port : RbPort) (s : State) : Res State :=
  andThen (requireInit s) fun _ =>
  andThen (requirePortIdle port s) fun _ =>
  andThen s.readFree fun free =>
  andThen s.readCap fun cap =>
  andThen (usedCount cap free) fun used =>
  .next (s.deliver port.toPort (.count used))

end Sys2Proof.Machine
end

