-- ==== Sys2Proof/Machine/Dispatch.lean ====
section
/-! DEFINITION. One arm per operation. -/

namespace Sys2Proof.Machine

/-- The meaning of an operation issued in state `s`. -/
def exec (i : Instr) (s : State) : Host.Outcome State Fault Refusal :=
  match i with
  | .rbInit storagePresent capacity => Sys2Proof.Machine.execRbInit storagePresent capacity s
  | .rbWrite len data => Sys2Proof.Machine.execRbWrite len data s
  | .rbRead maxLen => Sys2Proof.Machine.execRbRead maxLen s
  | .rbFree port => Sys2Proof.Machine.execRbFree port s
  | .rbUsed port => Sys2Proof.Machine.execRbUsed port s
  | .crcClr => Sys2Proof.Machine.execCrcClr s
  | .crcUpd b => Sys2Proof.Machine.execCrcUpd b s
  | .crcFin => Sys2Proof.Machine.execCrcFin s
  | .pktSoh body => Sys2Proof.Machine.execPktSoh body s
  | .pktStx body => Sys2Proof.Machine.execPktStx body s
  | .pktEot => Sys2Proof.Machine.execPktEot s
  | .pktAck => Sys2Proof.Machine.execPktAck s
  | .pktNak => Sys2Proof.Machine.execPktNak s
  | .pktCan => Sys2Proof.Machine.execPktCan s
  | .pktAbort1 => Sys2Proof.Machine.execPktAbort1 s
  | .pktCrcReq => Sys2Proof.Machine.execPktCrcReq s
  | .pktAbort2 => Sys2Proof.Machine.execPktAbort2 s

end Sys2Proof.Machine
end

