-- ==== Sys2Proof/Machine/Agents.lean ====
section
/-! DEFINITION. The agents: what one event of a schedule does (R9, R44, R110), and the record a word of the opcode
table is issued with. -/

namespace Sys2Proof.Machine

/-- A request is issued at a port: it is decoded there (R62) and its operation executed; a refused request leaves its
mark (R109). The record is decoded before the port's phase is looked at. -/
def issue (port : Port) (r : Record) (s : State) : Res State :=
  match decode s.idxW port r with
  | .ok i => settle port s (exec i s)
  | .error e => settle port s (.refused (rejectRefusal e))

/-- The agent takes the next step of its operation in flight. -/
def advanceAgent (a : DataAgent) (s : State) : Res State :=
  match a with
  | .p => advanceP s
  | .c => advanceC s

/-- One event of the schedule. -/
def takeEvent (e : Event) (s : State) : Res State :=
  match e with
  | .request port r => issue port r s
  | .advance a => advanceAgent a s
  | .reset => .next s.resetBlock

/-- One step of the machine: the next event of the schedule; with none left nothing happens (R9: the state changes
only by steps; R129). -/
def takeStep (s : State) : Res State :=
  match s.agenda with
  | [] => .next s
  | e :: rest => takeEvent e (s.withAgenda rest)

/-- The event that issues a word of the opcode table. -/
def tableEvent (nbits w : Nat) : Event :=
  let r := tableRecord nbits w
  .request (tablePort r.op) r

end Sys2Proof.Machine
end

