-- ==== Sys2Proof/Machine/Step.lean ====
section
/-! DEFINITION. The step, and the placing of one operation as the next event. -/

namespace Sys2Proof.Machine

/-- One step of the machine. -/
def step (s : State) : Host.Outcome State Fault Refusal := takeStep s

/-- `s` with the operation of an opcode-table word issued as the next event of its schedule. -/
def State.withFetchWord (s : State) (nbits w : Nat) : State :=
  s.withAgenda (tableEvent nbits w :: s.agenda)

end Sys2Proof.Machine
end

