-- ==== Sys2Proof/Machine/Pseudo.lean ====
section
/-! DEFINITION. The pseudo-operations of R63: expansions into requests, not new operations. -/

namespace Sys2Proof.Machine

/-- The event that requests an operation at its port. -/
def requestOf (i : Instr) : Event := .request (encode i).1 (encode i).2

/-- `V: CRC.CALC data` (R63): `CRC.CLR`, one `CRC.UPD` for each byte, `CRC.FIN`. -/
def crcCalc (data : List Byte) : List Event :=
  requestOf .crcClr :: (data.map (fun b => requestOf (.crcUpd b)) ++ [requestOf .crcFin])

/-- `V: PKT.CHECK frame` (R63): `PKT.SOH`, `PKT.STX` or `PKT.CTL` according to `frame[0]`. A frame whose first byte is
none of theirs is issued as the record it is: the one byte 0x20 or 0x22 runs `CRC.CLR` or `CRC.FIN`, and a byte that
port V does not accept is refused there (DESIGN CHOICE, log entry 17: R63 says nothing of such a frame). -/
def packetCheck (frame : List Byte) : Option Event := (recordOfFrame frame).map (.request .v)

/-- `X: RB.STAT` (R63): `RB.FREE`, then `RB.USED`, two separate steps. -/
def rbStat (port : RbPort) : List Event := [requestOf (.rbFree port), requestOf (.rbUsed port)]

/-- A request line of a write with all its steps taken one after the other (R63): the issue with its snapshot, `n`
copies and the commit. -/
def writeLine (len : Nat) (data : List Byte) (n : Nat) : List Event :=
  requestOf (.rbWrite len data) :: List.replicate (n + 1) (.advance .p)

/-- A request line of a read with all its steps taken one after the other (R63). -/
def readLine (maxLen n : Nat) : List Event :=
  requestOf (.rbRead maxLen) :: List.replicate (n + 1) (.advance .c)

end Sys2Proof.Machine
end

