-- ==== Sys2Proof/Safety.lean ====
section
/-! DEFINITION. What counts as a sound state and a good run, in the terms the claims use: the invariants of R24 and
R25 with the width and value facts they rest on (R13, R31), the queue view (R32), the bytes a run accepts and delivers
(R77), and the end of a run (R129). -/

namespace Sys2Proof.Machine

/-- The values of the four ring registers while `RB_INITED = 1`. -/
structure RingRegs where
  cap : Nat
  wr : Nat
  rd : Nat
  free : Nat
  deriving DecidableEq, Repr

/-- `USED = RB_CAP - RB_FREE` (R20). -/
def RingRegs.used (r : RingRegs) : Nat := r.cap - r.free

/-- The used region of R31, oldest cell first. -/
def RingRegs.usedRegion (r : RingRegs) : List Nat := copyCells r.cap r.rd r.used

/-- The free region of R31. -/
def RingRegs.freeRegion (r : RingRegs) : List Nat := copyCells r.cap r.wr r.free

/-- The buffer exists and its registers hold `r`. -/
def State.hasRing (s : State) (r : RingRegs) : Prop :=
  s.rbInited = true ∧ s.rbCap = some r.cap ∧ s.rbWr = some r.wr ∧ s.rbRd = some r.rd ∧ s.rbFree = some r.free

/-- No buffer exists: what R14 and R30 say while `RB_INITED = 0`. -/
def State.noRing (s : State) : Prop :=
  s.rbInited = false ∧ s.rbCap = none ∧ s.rbWr = none ∧ s.rbRd = none ∧ s.rbFree = none ∧ s.store = [] ∧
    s.portP = .idle ∧ s.portC = .idle

/-- INV1, INV3 and INV4 (R24, R25) with the capacity's range (R15). -/
def RingRegs.sound (idxW : Nat) (r : RingRegs) : Prop :=
  0 < r.cap ∧ r.cap < 2 ^ idxW ∧ r.free ≤ r.cap ∧ r.wr < r.cap ∧ r.rd < r.cap ∧
    (r.rd + r.used) % r.cap = r.wr

/-- INV5 (R25), the operand's width, and what the copy steps so far have done (R67). -/
def writeSound (idxW : Nat) (r : RingRegs) (m : Memory) : WritePhase → Prop
  | .idle => True
  | .copy l =>
    l.i ≤ l.n ∧ l.n ≤ r.free ∧ l.n ≤ l.len ∧ l.len < 2 ^ idxW ∧ l.data.length = l.len ∧
      ∀ k < l.i, m.read (ea r.cap r.wr k) = l.data[k]?

/-- INV6 (R25), the operand's width, and what the copy steps so far have done (R71). -/
def readSound (idxW : Nat) (r : RingRegs) (m : Memory) : ReadPhase → Prop
  | .idle => True
  | .copy l =>
    l.i ≤ l.n ∧ l.n ≤ r.used ∧ l.n ≤ l.maxLen ∧ l.maxLen < 2 ^ idxW ∧ l.data.length = l.i ∧
      ∀ k < l.i, m.read (ea r.cap r.rd k) = l.data[k]?

/-- Every cell of the used region holds a value (R31), and only cells of the store hold one (R34). -/
def storeSound (r : RingRegs) (m : Memory) : Prop :=
  (∀ k < r.used, (m.read (ea r.cap r.rd k)).isSome = true) ∧ (∀ a, (m.read a).isSome = true → a < r.cap)

/-- The invariant of the machine. -/
def State.Inv (s : State) : Prop :=
  s.store.wf = true ∧ 0 < s.idxW ∧
    (s.noRing ∨
      ∃ r : RingRegs, s.hasRing r ∧ r.sound s.idxW ∧ storeSound r s.store ∧
        writeSound s.idxW r s.store s.portP ∧ readSound s.idxW r s.store s.portC)

/-- The queue view `Q` (R32): the bytes of the used region, oldest first. -/
def State.queue (s : State) : List Byte :=
  match s.rbCap, s.rbRd, s.rbFree with
  | some cap, some rd, some free => (copyCells cap rd (cap - free)).filterMap s.store.read
  | _, _, _ => []

/-- The bytes that the next step accepts into the queue: the accepted part of the write it commits (R68). -/
def acceptedBy (s : State) : List Byte :=
  match s.agenda, s.portP with
  | .advance .p :: _, .copy l => if l.i = l.n then l.data.take l.n else []
  | _, _ => []

/-- The bytes that the writes committed in the next `k` steps accept, in commit order (R77's `A`). -/
def acceptedIn : Nat → State → List Byte
  | 0, _ => []
  | k + 1, s =>
    match step s with
    | .next t => acceptedBy s ++ acceptedIn k t
    | .fault _ => acceptedBy s
    | .refused _ => acceptedBy s

/-- The `data` results of the reads in a list of deliveries, in commit order (R77's `B`). -/
def deliveredBytes : List Delivery → List Byte
  | [] => []
  | ⟨_, .read _ data⟩ :: rest => data ++ deliveredBytes rest
  | _ :: rest => deliveredBytes rest

/-- What an event does, at the grain of R13's writers: an operation issued, a step of the operation in flight, reset,
or nothing (a record that decodes to no operation, an agent with nothing in flight). -/
inductive Action where
  | op (name : OpName)
  | pCopy
  | pCommit
  | cCopy
  | cCommit
  | reset
  | nothing
  deriving DecidableEq, Repr

/-- What the event does in state `s`. -/
def Event.action (e : Event) (s : State) : Action :=
  match e with
  | .request port r =>
    match decode s.idxW port r with
    | .ok i => .op i.name
    | .error _ => .nothing
  | .advance .p =>
    match s.portP with
    | .idle => .nothing
    | .copy l => if l.i < l.n then .pCopy else .pCommit
  | .advance .c =>
    match s.portC with
    | .idle => .nothing
    | .copy l => if l.i < l.n then .cCopy else .cCommit
  | .reset => .reset

/-- The operation is an `RB.INIT` that succeeds in state `s` (R64). -/
def initSucceeds (i : Instr) (s : State) : Bool :=
  match i with
  | .rbInit storagePresent capacity => storagePresent && decide (capacity ≠ 0) && !s.busyP && !s.busyC
  | _ => false

/-- An event that creates the buffer in state `s`. -/
def Event.createsBuffer (e : Event) (s : State) : Bool :=
  match e with
  | .request port r =>
    match decode s.idxW port r with
    | .ok i => initSucceeds i s
    | .error _ => false
  | .advance _ => false
  | .reset => false

/-- An event that neither creates the buffer anew in state `s` nor resets the block. -/
def Event.keepsBuffer (e : Event) (s : State) : Bool := decide (e ≠ .reset) && !e.createsBuffer s

/-- No event of the next `k` steps creates the buffer anew or resets the block. -/
def keepsBufferFor : Nat → State → Bool
  | 0, _ => true
  | k + 1, s =>
    s.agenda.head?.all (fun e => e.keepsBuffer s) &&
      match step s with
      | .next t => keepsBufferFor k t
      | .fault _ => true
      | .refused _ => true

/-- A step or reset that is not agent P's own, so that a write in flight is left alone. -/
def Event.leavesWrite : Event → Bool
  | .request _ _ => true
  | .advance a => decide (a ≠ .p)
  | .reset => false

/-- A step that is not agent C's own, so that a read in flight is left alone. -/
def Event.leavesRead : Event → Bool
  | .request _ _ => true
  | .advance a => decide (a ≠ .c)
  | .reset => false

/-- The operation bytes each port accepts (R49, R50). -/
def acceptedBytes : Port → List Byte
  | .cfg => [0x10#8, 0x13#8, 0x14#8]
  | .p => [0x11#8, 0x13#8, 0x14#8]
  | .c => [0x12#8, 0x13#8, 0x14#8]
  | .v => [0x20#8, 0x21#8, 0x22#8, 0x01#8, 0x02#8, 0x04#8, 0x06#8, 0x15#8, 0x18#8, 0x41#8, 0x43#8, 0x61#8]

/-- An event of unit RB: a request at port CFG, P or C, or a step of agent P or C (R2, R49). -/
def Event.ofUnitRb : Event → Bool
  | .request port _ => decide (port ≠ .v)
  | .advance _ => true
  | .reset => false

/-- An event of unit CRC: a request at port V (R2, R49). -/
def Event.ofUnitCrc : Event → Bool
  | .request port _ => decide (port = .v)
  | .advance _ => false
  | .reset => false

/-- `s` with the unit CRC state of `u`. -/
def State.withCrcOf (s u : State) : State := { s with crcAcc := u.crcAcc }

/-- `s` with the unit RB state of `u`. -/
def State.withRbOf (s u : State) : State :=
  { s with
    rbInited := u.rbInited
    rbCap := u.rbCap
    rbWr := u.rbWr
    rbRd := u.rbRd
    rbFree := u.rbFree
    store := u.store
    portP := u.portP
    portC := u.portC }

/-- The outcome with its next state, if it is one, changed by `f`. -/
def mapNext (f : State → State) : Res State → Res State
  | .next t => .next (f t)
  | .fault x => .fault x
  | .refused r => .refused r

/-- A run is at an end when no operation is in flight (R129). -/
def State.atEnd (s : State) : Bool := !s.busyP && !s.busyC

/-- A run that contains a refusal is no good run (R109). -/
def State.goodRun (s : State) : Bool := decide (s.refusals = [])

end Sys2Proof.Machine
end

