-- ==== Sys2Proof/Certificates/Slice0/Obligations.lean ====
section
/-! DEFINITION. The statements for the provers, each from a rule of the spec. -/

open Sys2Proof Sys2Proof.Machine

/-! ## Decoding -/

/-- One record of every row of R50, written out from the tables of 30_encoding.md and the decode vectors V-DEC-1 to
V-DEC-8, decodes to the operation it stands for (width 32, the default). -/
def Obligations.SpecRecordsDecode : Prop :=
  decode 32 .cfg ⟨0x10#8, [.flag true, .index 8]⟩ = .ok (.rbInit true 8) ∧
  decode 32 .p ⟨0x11#8, [.index 2, .bytes [0xA1#8, 0xA2#8]]⟩ = .ok (.rbWrite 2 [0xA1#8, 0xA2#8]) ∧
  decode 32 .c ⟨0x12#8, [.index 3]⟩ = .ok (.rbRead 3) ∧
  decode 32 .cfg ⟨0x13#8, []⟩ = .ok (.rbFree .cfg) ∧
  decode 32 .p ⟨0x13#8, []⟩ = .ok (.rbFree .p) ∧
  decode 32 .c ⟨0x14#8, []⟩ = .ok (.rbUsed .c) ∧
  decode 32 .v ⟨0x20#8, []⟩ = .ok .crcClr ∧
  decode 32 .v ⟨0x21#8, [.byte 0x31#8]⟩ = .ok (.crcUpd 0x31#8) ∧
  decode 32 .v ⟨0x22#8, []⟩ = .ok .crcFin ∧
  decode 32 .v ⟨0x01#8, [.bytes [0x00#8, 0xFF#8]]⟩ = .ok (.pktSoh [0x00#8, 0xFF#8]) ∧
  decode 32 .v ⟨0x02#8, [.bytes [0x01#8, 0xFE#8]]⟩ = .ok (.pktStx [0x01#8, 0xFE#8]) ∧
  decode 32 .v ⟨0x04#8, []⟩ = .ok .pktEot ∧
  decode 32 .v ⟨0x06#8, []⟩ = .ok .pktAck ∧
  decode 32 .v ⟨0x15#8, []⟩ = .ok .pktNak ∧
  decode 32 .v ⟨0x18#8, []⟩ = .ok .pktCan ∧
  decode 32 .v ⟨0x41#8, []⟩ = .ok .pktAbort1 ∧
  decode 32 .v ⟨0x43#8, []⟩ = .ok .pktCrcReq ∧
  decode 32 .v ⟨0x61#8, []⟩ = .ok .pktAbort2

/-- Decoding an encoded well-formed operation gives it back, with every operand at every value its field admits, for
every width (R51 to R60). -/
def Obligations.DecodeOfEncodeIsIdentity : Prop :=
  ∀ (idxW : Nat) (i : Instr), i.wellFormed idxW = true → decode idxW (encode i).1 (encode i).2 = .ok i

/-- Each operation has one record: whatever decodes to `i` is the encoding of `i`, and `i` is well-formed (R60, R62). -/
def Obligations.EncodeOfDecodeIsIdentity : Prop :=
  ∀ (idxW : Nat) (port : Port) (r : Record) (i : Instr),
    decode idxW port r = .ok i → encode i = (port, r) ∧ i.wellFormed idxW = true

/-- A record decodes to `invalid` exactly when its operation byte is not one the port accepts, whatever its operands
and whatever the width (R49, R61, R62). -/
def Obligations.InvalidExactlyForUnacceptedBytes : Prop :=
  ∀ (idxW : Nat) (port : Port) (r : Record),
    decode idxW port r = .error .invalidOp ↔ r.op ∉ acceptedBytes port

/-- A byte that the port does not accept, reserved or listed for another port, is refused as `InvalidOp`: no state of
the block changes and no result is produced (R61). That its mark is kept and the run goes on is log entry 7, that the
name is `InvalidOp` at a busy port too log entry 8: both are the model's choice. -/
def Obligations.UnacceptedByteRefused : Prop :=
  ∀ (s : State) (port : Port) (r : Record) (rest : List Event),
    s.agenda = .request port r :: rest → r.op ∉ acceptedBytes port →
      step s = .next { s with agenda := rest, refusals := s.refusals ++ [⟨port, .invalidOp⟩] }

/-! ## The step -/

/-- One step takes the next event of the schedule: a request that decodes to `i` runs `exec i` on the state with that
event taken off the schedule, and a refusal of R109 becomes a mark; an agent takes its next step; reset puts the block
in its reset state; an empty schedule changes nothing. The schedule as a list in the state is log entry 4, the idle
steps log entry 5: the model's choice. -/
def Obligations.StepRunsNextEvent : Prop :=
  (∀ (s : State) (port : Port) (r : Record) (rest : List Event) (i : Instr),
    s.agenda = .request port r :: rest → decode s.idxW port r = .ok i →
      step s = settle port { s with agenda := rest } (exec i { s with agenda := rest })) ∧
  (∀ (s : State) (rest : List Event),
    s.agenda = .advance .p :: rest → step s = advanceP { s with agenda := rest }) ∧
  (∀ (s : State) (rest : List Event),
    s.agenda = .advance .c :: rest → step s = advanceC { s with agenda := rest }) ∧
  (∀ (s : State) (rest : List Event),
    s.agenda = .reset :: rest → step s = .next (State.resetBlock { s with agenda := rest })) ∧
  (∀ s : State, s.agenda = [] → step s = .next s)

/-- A request that its operation refuses by one of the six names of R109 "has no result and changes no state": only
the schedule and the list of marks move on. That the run goes on is log entry 7, the model's reading. -/
def Obligations.RefusedRequestChangesNothing : Prop :=
  ∀ (s : State) (port : Port) (r : Record) (rest : List Event) (i : Instr) (name : Refusal),
    s.agenda = .request port r :: rest → decode s.idxW port r = .ok i →
    exec i { s with agenda := rest } = .refused name →
    name ∈ [Refusal.useBeforeInit, .initWhileBusy, .portBusy, .invalidOp, .badFrameLength, .unwrittenAccumulator] →
      step s = .next { s with agenda := rest, refusals := s.refusals ++ [⟨port, name⟩] }

/-- Nothing traps and nothing waits: from a state that meets the invariant every step answers a next state, but for a
request that is no record of the spec. R104 and R126 give this for operations and their steps. That a request refused
under the six names of R109 answers a next state is log entry 7, the model's reading; that an idle agent's event and an
empty schedule do is log entry 5, and that no record of the spec stops is log entry 9: the model's choice. -/
def Obligations.StepAlwaysGoesOn : Prop :=
  ∀ s : State, s.Inv →
    (∃ t, step s = .next t) ∨
      (step s = .refused .malformedRecord ∧ ∃ port r rest,
        s.agenda = .request port r :: rest ∧ decode s.idxW port r = .error .malformedRecord)

/-! ## Reset -/

/-- The reset state (R30): `RB_INITED` is 0, both phases are `IDLE`, everything else holds no value, which is `none` in
the model (log entry 1). -/
def Obligations.ResetStateHoldsNoValues : Prop :=
  State.reset.rbInited = false ∧ State.reset.portP = .idle ∧ State.reset.portC = .idle ∧
  State.reset.rbCap = none ∧ State.reset.rbWr = none ∧ State.reset.rbRd = none ∧ State.reset.rbFree = none ∧
  (∀ a, State.reset.store.read a = none) ∧ State.reset.crcAcc = none

/-- The reset event, in every state (R114, R115): every piece of the block's state takes its value of R30, an operation
in flight is lost, and no result is delivered. That "no value" is `none` is log entry 1; that the results already
delivered stay is log entry 11: the model's choice. -/
def Obligations.ResetEventAbandonsEverything : Prop :=
  ∀ (s : State) (rest : List Event), s.agenda = .reset :: rest →
    ∃ t, step s = .next t ∧ t.noRing ∧ (∀ a, t.store.read a = none) ∧ t.crcAcc = none ∧
      t.results = s.results

/-- The reset state meets the invariant. -/
def Obligations.ResetMeetsInvariant : Prop := State.reset.Inv

/-! ## Invariants -/

/-- Every step keeps the invariant: INV1 to INV6 (R24, R25), the value facts of R31, the widths, and the store's
canonical form. -/
def Obligations.StepKeepsInvariant : Prop :=
  ∀ s t : State, s.Inv → step s = .next t → t.Inv

/-- Every step, from every state, keeps the store in its canonical form: the listed addresses rise strictly. The form is
the model's own representation of the store (log entry 16). -/
def Obligations.StepKeepsStoreCanonical : Prop :=
  ∀ s t : State, s.store.wf = true → step s = .next t → t.store.wf = true

/-- The count invariant after every step (R24): INV1 and INV2. -/
def Obligations.CountInvariantAfterEveryStep : Prop :=
  ∀ s t : State, s.Inv → step s = .next t → t.rbInited = true →
    ∃ cap free, t.rbCap = some cap ∧ t.rbFree = some free ∧ free ≤ cap ∧ (cap - free) + free = cap

/-- No register or latch of unit RB leaves its `IDX_W` bits (R13, R78): after every step each value held is at most
`IDX_MAX`. -/
def Obligations.EveryCountFitsItsWidth : Prop :=
  ∀ s t : State, s.Inv → step s = .next t →
    (∀ v, t.rbCap = some v ∨ t.rbWr = some v ∨ t.rbRd = some v ∨ t.rbFree = some v → v < 2 ^ t.idxW) ∧
    (∀ l, t.portP = .copy l → l.len < 2 ^ t.idxW ∧ l.n < 2 ^ t.idxW ∧ l.i < 2 ^ t.idxW) ∧
    (∀ l, t.portC = .copy l → l.maxLen < 2 ^ t.idxW ∧ l.n < 2 ^ t.idxW ∧ l.i < 2 ^ t.idxW)

/-- Only the writers that R13 lists change each piece of state, in every state and for every event: the buffer's
existence and size change by a successful `RB.INIT` and reset alone; while it is kept, `RB_WR` changes by a write commit,
`RB_RD` by a read commit, `RB_FREE` by either, the store by a write copy; a port's latches by the steps of its own write
or read; the accumulator by the five operations of unit CRC that write it, `PKT.CTL` not among them. -/
def Obligations.OnlyListedWritersChangeState : Prop :=
  ∀ (s t : State) (e : Event) (rest : List Event), s.agenda = e :: rest → step s = .next t →
    (e.createsBuffer s = true → e.action s = .op .rbInit) ∧
    (e.keepsBuffer s = true →
      t.rbInited = s.rbInited ∧ t.rbCap = s.rbCap ∧
      (t.rbWr ≠ s.rbWr → e.action s = .pCommit) ∧
      (t.rbRd ≠ s.rbRd → e.action s = .cCommit) ∧
      (t.rbFree ≠ s.rbFree → e.action s ∈ [Action.pCommit, .cCommit]) ∧
      (t.store ≠ s.store → e.action s = .pCopy)) ∧
    (t.portP ≠ s.portP → e.action s ∈ [Action.op .rbWrite, .pCopy, .pCommit, .reset]) ∧
    (t.portC ≠ s.portC → e.action s ∈ [Action.op .rbRead, .cCopy, .cCommit, .reset]) ∧
    (t.crcAcc ≠ s.crcAcc →
      e.action s ∈ [Action.op .crcClr, .op .crcUpd, .op .crcFin, .op .pktSoh, .op .pktStx, .reset]) ∧
    t.idxW = s.idxW

/-! ## RB.INIT -/

/-- `RB.INIT` (R64): refused while a write or a read is in flight, whatever its operands; else storage absent, capacity
zero or both give the one result `InvalidArgument` (code 0x01, R101) and change no state; else the buffer is created
empty, its cells each holding no value. -/
def Obligations.InitCreatesBufferOrFails : Prop :=
  (∀ (sp : Bool) (capacity : Nat),
    encode (.rbInit sp capacity) = (.cfg, ⟨0x10#8, [.flag sp, .index capacity]⟩)) ∧
  Status.ok.code = 0x00#8 ∧ Status.invalidArgument.code = 0x01#8 ∧
  (∀ (s : State) (sp : Bool) (capacity : Nat), (s.portP ≠ .idle ∨ s.portC ≠ .idle) →
    exec (.rbInit sp capacity) s = .refused .initWhileBusy) ∧
  (∀ (s : State) (sp : Bool) (capacity : Nat), s.portP = .idle → s.portC = .idle → (sp = false ∨ capacity = 0) →
    exec (.rbInit sp capacity) s = .next { s with results := s.results ++ [⟨.cfg, .status .invalidArgument⟩] }) ∧
  (∀ (s : State) (capacity : Nat), s.portP = .idle → s.portC = .idle → capacity ≠ 0 →
    exec (.rbInit true capacity) s = .next
      { s with
        rbInited := true
        rbCap := some capacity
        rbFree := some capacity
        rbWr := some 0
        rbRd := some 0
        store := []
        results := s.results ++ [⟨.cfg, .status .ok⟩] })

/-! ## RB.WRITE and its steps -/

/-- `RB.WRITE` issues its snapshot step (R66): the byte count is `min(len, RB_FREE)`, the bytes are latched. -/
def Obligations.WriteTakesSnapshot : Prop :=
  ∀ (s : State) (len : Nat) (data : List Byte) (f : Nat),
    s.rbInited = true → s.portP = .idle → s.rbFree = some f →
      exec (.rbWrite len data) s = .next { s with portP := .copy { len := len, data := data, n := min len f, i := 0 } }

/-- Step `P.copy` (R67). -/
def Obligations.WriteCopyStep : Prop :=
  ∀ (s : State) (rest : List Event) (l : WriteLatch) (cap wr : Nat) (b : Byte),
    s.agenda = .advance .p :: rest → s.rbInited = true → s.portP = .copy l → l.i < l.n →
    s.rbCap = some cap → 0 < cap → s.rbWr = some wr → l.data[l.i]? = some b →
      step s = .next
        { s with
          agenda := rest
          store := s.store.write ((wr + l.i) % cap) b
          portP := .copy { l with i := l.i + 1 } }

/-- Step `P.commit` (R68): index and free count in one step, from the current free count. -/
def Obligations.WriteCommitStep : Prop :=
  ∀ (s : State) (rest : List Event) (l : WriteLatch) (cap wr free : Nat),
    s.agenda = .advance .p :: rest → s.portP = .copy l → l.i = l.n →
    s.rbCap = some cap → s.rbWr = some wr → s.rbFree = some free → l.n ≤ free →
      step s = .next
        { s with
          agenda := rest
          rbWr := some ((wr + l.n) % cap)
          rbFree := some (free - l.n)
          portP := .idle
          results := s.results ++ [⟨.p, .written l.n⟩] }

/-! ## RB.READ and its steps -/

/-- `RB.READ` issues its snapshot step (R70): the byte count is `min(USED, max_len)`. -/
def Obligations.ReadTakesSnapshot : Prop :=
  ∀ (s : State) (maxLen cap f : Nat),
    s.rbInited = true → s.portC = .idle → s.rbCap = some cap → s.rbFree = some f → f ≤ cap →
      exec (.rbRead maxLen) s = .next
        { s with portC := .copy { maxLen := maxLen, n := min (cap - f) maxLen, i := 0, data := [] } }

/-- Step `C.copy` (R71). -/
def Obligations.ReadCopyStep : Prop :=
  ∀ (s : State) (rest : List Event) (l : ReadLatch) (cap rd : Nat) (b : Byte),
    s.agenda = .advance .c :: rest → s.rbInited = true → s.portC = .copy l → l.i < l.n →
    s.rbCap = some cap → 0 < cap → s.rbRd = some rd → s.store.read ((rd + l.i) % cap) = some b →
      step s = .next
        { s with agenda := rest, portC := .copy { l with i := l.i + 1, data := l.data ++ [b] } }

/-- Step `C.commit` (R72): index and free count in one step. -/
def Obligations.ReadCommitStep : Prop :=
  ∀ (s : State) (rest : List Event) (l : ReadLatch) (cap rd free : Nat),
    s.agenda = .advance .c :: rest → s.portC = .copy l → l.i = l.n →
    s.rbCap = some cap → s.rbRd = some rd → s.rbFree = some free → free + l.n ≤ cap →
      step s = .next
        { s with
          agenda := rest
          rbRd := some ((rd + l.n) % cap)
          rbFree := some (free + l.n)
          portC := .idle
          results := s.results ++ [⟨.c, .read l.n (l.data.take l.n)⟩] }

/-! ## Status reads -/

/-- `RB.FREE` (R73) at port CFG, or at port P or C while that port is idle; refused before a successful init and on a
busy port P or C. -/
def Obligations.FreeReturnsFreeCount : Prop :=
  ∀ (s : State) (q : RbPort),
    encode (.rbFree q) = (q.toPort, ⟨0x13#8, []⟩) ∧
    (∀ f, s.rbInited = true → (q = .p → s.portP = .idle) → (q = .c → s.portC = .idle) → s.rbFree = some f →
      exec (.rbFree q) s = .next { s with results := s.results ++ [⟨q.toPort, .count f⟩] }) ∧
    (s.rbInited = false → exec (.rbFree q) s = .refused .useBeforeInit) ∧
    (s.rbInited = true → (q = .p ∧ s.portP ≠ .idle ∨ q = .c ∧ s.portC ≠ .idle) →
      exec (.rbFree q) s = .refused .portBusy)

/-- `RB.USED` (R74) at port CFG, or at port P or C while that port is idle; refused before a successful init and on a
busy port P or C. -/
def Obligations.UsedReturnsUsedCount : Prop :=
  ∀ (s : State) (q : RbPort),
    encode (.rbUsed q) = (q.toPort, ⟨0x14#8, []⟩) ∧
    (∀ cap f, s.rbInited = true → (q = .p → s.portP = .idle) → (q = .c → s.portC = .idle) →
      s.rbCap = some cap → s.rbFree = some f → f ≤ cap →
      exec (.rbUsed q) s = .next { s with results := s.results ++ [⟨q.toPort, .count (cap - f)⟩] }) ∧
    (s.rbInited = false → exec (.rbUsed q) s = .refused .useBeforeInit) ∧
    (s.rbInited = true → (q = .p ∧ s.portP ≠ .idle ∨ q = .c ∧ s.portC ≠ .idle) →
      exec (.rbUsed q) s = .refused .portBusy)

/-! ## Refusals of RB.WRITE and RB.READ -/

/-- `RB.WRITE` and `RB.READ` while `RB_INITED = 0`, and while their port's phase latch is not `IDLE` (R14, R49, R65, R69,
R109). -/
def Obligations.DataRequestsRefused : Prop :=
  ∀ s : State,
    (s.rbInited = false →
      (∀ len data, exec (.rbWrite len data) s = .refused .useBeforeInit) ∧
      (∀ maxLen, exec (.rbRead maxLen) s = .refused .useBeforeInit)) ∧
    (s.rbInited = true → s.portP ≠ .idle → ∀ len data, exec (.rbWrite len data) s = .refused .portBusy) ∧
    (s.rbInited = true → s.portC ≠ .idle → ∀ maxLen, exec (.rbRead maxLen) s = .refused .portBusy)

/-! ## Whole operations -/

/-- A whole write with no step of another agent inside it (R65, R126): `n = min(len, RB_FREE)` bytes go to the cells
`ea(RB_WR, k)`, then the index and the free count move by `n`, in `n + 2` steps. -/
def Obligations.WholeWriteNetEffect : Prop :=
  ∀ (s : State) (r : RingRegs) (len : Nat) (data : List Byte) (rest : List Event),
    s.Inv → s.hasRing r → s.portP = .idle → Instr.wellFormed s.idxW (.rbWrite len data) = true →
    s.agenda = writeLine len data (min len r.free) ++ rest →
      Sys2Proof.core.run (min len r.free + 2) s = .next
        { s with
          agenda := rest
          store := writeCells r.cap r.wr (data.take (min len r.free)) s.store
          rbWr := some ((r.wr + min len r.free) % r.cap)
          rbFree := some (r.free - min len r.free)
          results := s.results ++ [⟨.p, .written (min len r.free)⟩] }

/-- A whole read with no step of another agent inside it (R69, R126): `n = min(USED, max_len)` bytes come from the cells
`ea(RB_RD, k)`, which the queue view lists in order, then the index and the free count move by `n`. -/
def Obligations.WholeReadNetEffect : Prop :=
  ∀ (s : State) (r : RingRegs) (maxLen : Nat) (rest : List Event),
    s.Inv → s.hasRing r → s.portC = .idle → Instr.wellFormed s.idxW (.rbRead maxLen) = true →
    s.agenda = readLine maxLen (min r.used maxLen) ++ rest →
      Sys2Proof.core.run (min r.used maxLen + 2) s = .next
        { s with
          agenda := rest
          rbRd := some ((r.rd + min r.used maxLen) % r.cap)
          rbFree := some (r.free + min r.used maxLen)
          results := s.results ++ [⟨.c, .read (min r.used maxLen) (s.queue.take (min r.used maxLen))⟩] }

/-- The sequential law (R75): without overlap the buffer is a first-in first-out queue of at most `RB_CAP` bytes. -/
def Obligations.SequentialQueueLaw : Prop :=
  (∀ (s : State) (capacity : Nat), s.portP = .idle → s.portC = .idle → capacity ≠ 0 →
    ∃ t, exec (.rbInit true capacity) s = .next t ∧ t.rbCap = some capacity ∧ t.queue = [] ∧
      t.results = s.results ++ [⟨.cfg, .status .ok⟩]) ∧
  ∀ (s : State) (r : RingRegs), s.Inv → s.hasRing r →
    s.queue.length ≤ r.cap ∧
    (∀ len data rest, s.portP = .idle → Instr.wellFormed s.idxW (.rbWrite len data) = true →
      s.agenda = writeLine len data (min len (r.cap - s.queue.length)) ++ rest →
        ∃ t, Sys2Proof.core.run (min len (r.cap - s.queue.length) + 2) s = .next t ∧ t.agenda = rest ∧
          t.queue = s.queue ++ data.take (min len (r.cap - s.queue.length)) ∧
          t.results = s.results ++ [⟨.p, .written (min len (r.cap - s.queue.length))⟩]) ∧
    (∀ maxLen rest, s.portC = .idle → Instr.wellFormed s.idxW (.rbRead maxLen) = true →
      s.agenda = readLine maxLen (min s.queue.length maxLen) ++ rest →
        ∃ t, Sys2Proof.core.run (min s.queue.length maxLen + 2) s = .next t ∧ t.agenda = rest ∧
          t.queue = s.queue.drop (min s.queue.length maxLen) ∧
          t.results = s.results ++
            [⟨.c, .read (min s.queue.length maxLen) (s.queue.take (min s.queue.length maxLen))⟩]) ∧
    (∀ q, (q = .p → s.portP = .idle) → (q = .c → s.portC = .idle) →
      exec (.rbFree q) s = .next (s.deliver q.toPort (.count (r.cap - s.queue.length))) ∧
      exec (.rbUsed q) s = .next (s.deliver q.toPort (.count s.queue.length)))

/-- First-in first-out under every schedule (R77): over any run that neither creates the buffer anew nor resets the
block, the bytes queued before and then those accepted meanwhile (`A`) are, in order, the bytes delivered meanwhile
(`B`) and then those still queued; from an empty buffer `B` is a prefix of `A` and shorter than it by `USED`. -/
def Obligations.FifoUnderEverySchedule : Prop :=
  ∀ (k : Nat) (s t : State), s.Inv → s.rbInited = true →
    keepsBufferFor k s = true → Sys2Proof.core.run k s = .next t →
      ∃ (b : List Byte) (r : RingRegs),
        deliveredBytes t.results = deliveredBytes s.results ++ b ∧
        s.queue ++ acceptedIn k s = b ++ t.queue ∧
        t.hasRing r ∧ t.queue.length = r.used ∧
        (s.queue = [] → b <+: acceptedIn k s ∧ (acceptedIn k s).length = b.length + r.used)

/-- What changes the queue view (R32): a write commit appends the accepted bytes to its end, a read commit removes the
delivered bytes from its front and delivers exactly them, and nothing else changes it while the buffer lasts, a refused
or failed `RB.INIT` included. Its length is `USED`. -/
def Obligations.QueueChangesOnlyByCommits : Prop :=
  ∀ (s t : State) (e : Event) (rest : List Event),
    s.Inv → s.rbInited = true → s.agenda = e :: rest → e.keepsBuffer s = true → step s = .next t →
      (∃ r : RingRegs, t.hasRing r ∧ t.queue.length = r.used) ∧
      (∀ l, e = .advance .p → s.portP = .copy l → l.i = l.n → t.queue = s.queue ++ l.data.take l.n) ∧
      (∀ l, e = .advance .c → s.portC = .copy l → l.i = l.n →
        s.queue = l.data.take l.n ++ t.queue ∧ t.results = s.results ++ [⟨.c, .read l.n (l.data.take l.n)⟩]) ∧
      ((∀ l, e = .advance .p → s.portP = .copy l → l.i ≠ l.n) →
        (∀ l, e = .advance .c → s.portC = .copy l → l.i ≠ l.n) → t.queue = s.queue)

/-- The byte count of a write or a read in flight is fixed at its snapshot: no request and no step of the other agent
changes its latches, in any state (R66, R70, R76). -/
def Obligations.InFlightLatchesFixed : Prop :=
  (∀ (s t : State) (e : Event) (rest : List Event) (l : WriteLatch),
    s.agenda = e :: rest → e.leavesWrite = true → s.portP = .copy l → step s = .next t → t.portP = .copy l) ∧
  (∀ (s t : State) (e : Event) (rest : List Event) (l : ReadLatch),
    s.agenda = e :: rest → e.leavesRead = true → s.portC = .copy l → step s = .next t → t.portC = .copy l)

/-- An issued operation is carried to completion by its own agent alone (R126): `P_N - P_I` copies and the commit, and
the same for a read. -/
def Obligations.OwnStepsCompleteOperation : Prop :=
  (∀ (s : State) (l : WriteLatch) (rest : List Event), s.Inv → s.portP = .copy l →
    s.agenda = List.replicate (l.n - l.i + 1) (.advance .p) ++ rest →
      ∃ t, Sys2Proof.core.run (l.n - l.i + 1) s = .next t ∧ t.portP = .idle ∧ t.portC = s.portC ∧
        t.agenda = rest ∧ t.results = s.results ++ [⟨.p, .written l.n⟩]) ∧
  (∀ (s : State) (l : ReadLatch) (rest : List Event), s.Inv → s.portC = .copy l →
    s.agenda = List.replicate (l.n - l.i + 1) (.advance .c) ++ rest →
      ∃ t, Sys2Proof.core.run (l.n - l.i + 1) s = .next t ∧ t.portC = .idle ∧ t.portP = s.portP ∧
        t.agenda = rest ∧ t.results = s.results ++ [⟨.c, .read l.n (s.queue.take l.n)⟩])

/-- Two commits give the same registers in either order (R125). The results are delivered each on its own port; only
their order in the list of deliveries, the model's own (log entry 6), differs. -/
def Obligations.CommitsCommute : Prop :=
  ∀ (s : State) (lp : WriteLatch) (lc : ReadLatch) (rest : List Event),
    s.Inv → s.portP = .copy lp → lp.i = lp.n → s.portC = .copy lc → lc.i = lc.n →
      ∃ t u,
        Sys2Proof.core.run 2 { s with agenda := .advance .p :: .advance .c :: rest } = .next t ∧
        Sys2Proof.core.run 2 { s with agenda := .advance .c :: .advance .p :: rest } = .next u ∧
        u = { t with results := u.results } ∧
        t.results = s.results ++ [⟨.p, .written lp.n⟩, ⟨.c, .read lc.n (lc.data.take lc.n)⟩] ∧
        u.results = s.results ++ [⟨.c, .read lc.n (lc.data.take lc.n)⟩, ⟨.p, .written lp.n⟩]

/-! ## Indices and regions -/

/-- The regions (R31): the used and the free region are disjoint and together are all the cells, each once; every cell
of the used region holds a value; a write in flight copies only into the free region, a read in flight only out of the
used region. -/
def Obligations.RegionsSeparateTheAgents : Prop :=
  ∀ (s : State) (r : RingRegs), s.Inv → s.hasRing r →
    (r.usedRegion ++ r.freeRegion).Perm (List.range r.cap) ∧
    (∀ a ∈ r.usedRegion, (s.store.read a).isSome = true) ∧
    (∀ l, s.portP = .copy l → ∀ k < l.n, ea r.cap r.wr k ∈ r.freeRegion ∧ ea r.cap r.wr k ∉ r.usedRegion) ∧
    (∀ l, s.portC = .copy l → ∀ k < l.n, ea r.cap r.rd k ∈ r.usedRegion ∧ ea r.cap r.rd k ∉ r.freeRegion)

/-- The indices are equal exactly when the buffer is empty or full (R26). -/
def Obligations.EqualIndicesMeanEmptyOrFull : Prop :=
  ∀ (idxW : Nat) (r : RingRegs), r.sound idxW →
    (r.wr = r.rd ↔ isEmpty r.cap r.free = true ∨ isFull r.free = true)

/-- The effective index is one conditional subtraction (R37). The two moves of the wrap split touch exactly the cells
`ea(b, k)`, in stream order; the second one exists only if the range crosses the end, and a range that ends exactly at
the end makes the commit wrap the index to 0 (R38). -/
def Obligations.WrapSplitTouchesSameCells : Prop :=
  (∀ cap base k : Nat, base < cap → k < cap →
    ea cap base k = if base + k < cap then base + k else base + k - cap) ∧
  (∀ cap b n : Nat, b < cap → n ≤ cap →
    wrapSplit cap b n = (min n (cap - b), n - min n (cap - b)) ∧ splitCells cap b n = copyCells cap b n ∧
    ((wrapSplit cap b n).2 ≠ 0 ↔ b + n > cap) ∧ (b + n = cap → advanceIndex cap b n = 0))

/-! ## Unit CRC -/

/-- `CRC.CLR` (R84), in every state. -/
def Obligations.CrcClrWritesInit : Prop :=
  encode .crcClr = (.v, ⟨0x20#8, []⟩) ∧
  ∀ s : State, exec .crcClr s = .next { s with crcAcc := some 0x0000#16 }

/-- `CRC.UPD` (R85): one `crc_update`, or refused while the accumulator holds no value. The bit step is that of R81,
written out with its polynomial 0x1021, and the bits of the byte enter from the most significant one on. -/
def Obligations.CrcUpdFeedsOneByte : Prop :=
  (∀ (c : CrcWord) (m : Bool),
    crcBit c m =
      if c.getLsbD 15 = true then (c <<< 1 ||| if m = true then 0x0001#16 else 0x0000#16) ^^^ 0x1021#16
      else c <<< 1 ||| if m = true then 0x0001#16 else 0x0000#16) ∧
  (∀ (c : CrcWord) (b : Byte),
    crcUpdate c b =
      crcBit (crcBit (crcBit (crcBit (crcBit (crcBit (crcBit (crcBit c (b.getLsbD 7)) (b.getLsbD 6)) (b.getLsbD 5))
        (b.getLsbD 4)) (b.getLsbD 3)) (b.getLsbD 2)) (b.getLsbD 1)) (b.getLsbD 0)) ∧
  ∀ (s : State) (b : Byte),
    encode (.crcUpd b) = (.v, ⟨0x21#8, [.byte b]⟩) ∧
    (∀ c, s.crcAcc = some c → exec (.crcUpd b) s = .next { s with crcAcc := some (crcUpdate c b) }) ∧
    (s.crcAcc = none → exec (.crcUpd b) s = .refused .unwrittenAccumulator)

/-- `CRC.FIN` (R86): two `crc_update`s with byte 0x00, kept and returned, or refused while the accumulator holds no
value. -/
def Obligations.CrcFinReturnsCrc : Prop :=
  encode .crcFin = (.v, ⟨0x22#8, []⟩) ∧
  ∀ s : State,
    (∀ c, s.crcAcc = some c → exec .crcFin s = .next
      { s with
        crcAcc := some (crcUpdate (crcUpdate c 0x00#8) 0x00#8)
        results := s.results ++ [⟨.v, .crc (crcUpdate (crcUpdate c 0x00#8) 0x00#8)⟩] }) ∧
    (s.crcAcc = none → exec .crcFin s = .refused .unwrittenAccumulator)

/-- The sequence `CRC.CLR`, `CRC.UPD` of each byte, `CRC.FIN` returns `crc16` of the bytes, from every state and for
every length (R63, R86). -/
def Obligations.CrcStreamReturnsCrc16 : Prop :=
  ∀ (s : State) (data : List Byte) (rest : List Event), s.agenda = crcCalc data ++ rest →
    Sys2Proof.core.run (data.length + 2) s = .next
      { s with
        agenda := rest
        crcAcc := some (crc16 data)
        results := s.results ++ [⟨.v, .crc (crc16 data)⟩] }

/-- The form of R83, item 2, without trailing zeros, written out with its shifts and the polynomial 0x1021, gives the same
CRC for every byte sequence; `crc16Direct` is that form. -/
def Obligations.CrcDirectFormAgrees : Prop :=
  ∀ d : List Byte,
    crc16 d =
      d.foldl
        (fun (c : CrcWord) (b : Byte) =>
          (List.range 8).foldl
            (fun (acc : CrcWord) _ => if acc.getLsbD 15 = true then (acc <<< 1) ^^^ 0x1021#16 else acc <<< 1)
            (c ^^^ (b ++ 0x00#8)))
        0x0000#16 ∧
    crc16Direct d = crc16 d

/-- Linearity (R87, item 1). -/
def Obligations.CrcIsLinear : Prop :=
  ∀ a b : List Byte, a.length = b.length →
    crc16 (List.zipWith (fun x y => x ^^^ y) a b) = crc16 a ^^^ crc16 b

/-- Residue (R87, item 2): the bytes followed by their trailer leave 0x0000. -/
def Obligations.CrcResidueIsZero : Prop :=
  ∀ d : List Byte, crcFeed 0x0000#16 (d ++ trailer d) = 0x0000#16

/-- Changing any one byte of a sequence changes its CRC; in particular every single-bit error is detected (R87,
item 3). -/
def Obligations.CrcDetectsOneByteChange : Prop :=
  ∀ (before after : List Byte) (x y : Byte), x ≠ y →
    crc16 (before ++ x :: after) ≠ crc16 (before ++ y :: after)

/-- Leading zero bytes do not change the CRC, and any run of zero bytes has CRC 0x0000 (R90). -/
def Obligations.CrcIgnoresLeadingZeros : Prop :=
  ∀ (k : Nat) (d : List Byte),
    crc16 (List.replicate k 0x00#8 ++ d) = crc16 d ∧ crc16 (List.replicate k 0x00#8) = 0x0000#16

/-! ## The packet check -/

/-- `PKT.SOH` (R94): the payload's CRC is left in the accumulator, the sequence check decides first; a frame that is not
133 bytes is refused. -/
def Obligations.SohCheckVerdict : Prop :=
  (∀ body, encode (.pktSoh body) = (.v, ⟨0x01#8, [.bytes body]⟩)) ∧
  (Verdict.accept.code = 0x00#8 ∧ Verdict.rejectSeq.code = 0x01#8 ∧ Verdict.rejectCrc.code = 0x02#8) ∧
  (∀ (s : State) (seq cseq hi lo : Byte) (payload : List Byte), payload.length = 128 →
    exec (.pktSoh (seq :: cseq :: (payload ++ [hi, lo]))) s = .next
      { s with
        crcAcc := some (crc16 payload)
        results := s.results ++ [⟨.v, .packet
          (if seq.toNat + cseq.toNat ≠ 0xFF then .rejectSeq
            else if crc16 payload ≠ hi ++ lo then .rejectCrc else .accept) seq 128#16⟩] }) ∧
  (∀ (s : State) (body : List Byte), (0x01#8 :: body).length ≠ 133 →
    exec (.pktSoh body) s = .refused .badFrameLength)

/-- `PKT.STX` (R95): as `PKT.SOH` with 1024 payload bytes and a frame of 1029 bytes. -/
def Obligations.StxCheckVerdict : Prop :=
  (∀ body, encode (.pktStx body) = (.v, ⟨0x02#8, [.bytes body]⟩)) ∧
  (Verdict.accept.code = 0x00#8 ∧ Verdict.rejectSeq.code = 0x01#8 ∧ Verdict.rejectCrc.code = 0x02#8) ∧
  (∀ (s : State) (seq cseq hi lo : Byte) (payload : List Byte), payload.length = 1024 →
    exec (.pktStx (seq :: cseq :: (payload ++ [hi, lo]))) s = .next
      { s with
        crcAcc := some (crc16 payload)
        results := s.results ++ [⟨.v, .packet
          (if seq.toNat + cseq.toNat ≠ 0xFF then .rejectSeq
            else if crc16 payload ≠ hi ++ lo then .rejectCrc else .accept) seq 1024#16⟩] }) ∧
  (∀ (s : State) (body : List Byte), (0x02#8 :: body).length ≠ 1029 →
    exec (.pktStx body) s = .refused .badFrameLength)

/-- `PKT.CTL` (R96), each of the seven control bytes, in every state. -/
def Obligations.ControlBytesHaveNoCheck : Prop :=
  encode .pktEot = (.v, ⟨0x04#8, []⟩) ∧ encode .pktAck = (.v, ⟨0x06#8, []⟩) ∧ encode .pktNak = (.v, ⟨0x15#8, []⟩) ∧
  encode .pktCan = (.v, ⟨0x18#8, []⟩) ∧ encode .pktAbort1 = (.v, ⟨0x41#8, []⟩) ∧
  encode .pktCrcReq = (.v, ⟨0x43#8, []⟩) ∧ encode .pktAbort2 = (.v, ⟨0x61#8, []⟩) ∧
  Verdict.noCheck.code = 0x03#8 ∧
  ∀ (s : State) (i : Instr),
    i ∈ [Instr.pktEot, .pktAck, .pktNak, .pktCan, .pktAbort1, .pktCrcReq, .pktAbort2] →
      exec i s = .next { s with results := s.results ++ [⟨.v, .packet .noCheck 0x00#8 0#16⟩] }

/-- The sequence check and its equivalent statements (R92), on the check the packet operations make and on the verdict
it decides. -/
def Obligations.SequenceCheckForms : Prop :=
  ∀ (f : PacketFields) (c : CrcWord),
    (seqOk f = true ↔ f.seq.toNat + f.cseq.toNat = 0xFF) ∧
    (seqOk f = true ↔ f.cseq = f.seq ^^^ 0xFF#8) ∧
    (seqOk f = true ↔ f.cseq.toNat = 255 - f.seq.toNat) ∧
    (seqOk f = true ↔ (f.seq.toNat + f.cseq.toNat) % 256 = 0xFF) ∧
    (verdictOf f c = .rejectSeq ↔ f.cseq ≠ f.seq ^^^ 0xFF#8)

/-- Round trip (R99, item 1): a frame built from a payload with its trailer is accepted, for every sequence byte. -/
def Obligations.RoundTripAccepted : Prop :=
  ∀ (s : State) (seq : Byte) (payload : List Byte),
    (payload.length = 128 →
      exec (.pktSoh (seq :: (seq ^^^ 0xFF#8) :: (payload ++ trailer payload))) s = .next
        { s with
          crcAcc := some (crc16 payload)
          results := s.results ++ [⟨.v, .packet .accept seq 128#16⟩] }) ∧
    (payload.length = 1024 →
      exec (.pktStx (seq :: (seq ^^^ 0xFF#8) :: (payload ++ trailer payload))) s = .next
        { s with
          crcAcc := some (crc16 payload)
          results := s.results ++ [⟨.v, .packet .accept seq 1024#16⟩] })

/-- Damage to the payload or the trailer of an accepted SOH or STX frame (R99, item 2): with one payload byte changed in
any way, or the trailer changed in any way, the verdict is `RejectCrc`; every single bit flip is such a change. -/
def Obligations.DamagedPayloadOrTrailerRejected : Prop :=
  ∀ (s : State) (packet : List Byte → Instr) (n : Nat) (seq : Byte) (before after : List Byte) (x y hi lo : Byte),
    (packet = Instr.pktSoh ∧ n = 128 ∨ packet = Instr.pktStx ∧ n = 1024) → (before ++ x :: after).length = n →
      (x ≠ y →
        exec (packet (seq :: (seq ^^^ 0xFF#8) :: (before ++ y :: after ++ trailer (before ++ x :: after)))) s = .next
          { s with
            crcAcc := some (crc16 (before ++ y :: after))
            results := s.results ++ [⟨.v, .packet .rejectCrc seq (BitVec.ofNat 16 n)⟩] }) ∧
      ([hi, lo] ≠ trailer (before ++ x :: after) →
        exec (packet (seq :: (seq ^^^ 0xFF#8) :: (before ++ x :: after ++ [hi, lo]))) s = .next
          { s with
            crcAcc := some (crc16 (before ++ x :: after))
            results := s.results ++ [⟨.v, .packet .rejectCrc seq (BitVec.ofNat 16 n)⟩] })

/-- Damage to the sequence pair of a SOH or STX frame with a valid pair (R99, item 3): changing one of the two bytes in
any way gives `RejectSeq`, whatever the trailer; an accepted frame with the same bits flipped in both is accepted again,
with another sequence byte. -/
def Obligations.DamagedSequenceRejected : Prop :=
  ∀ (s : State) (packet : List Byte → Instr) (n : Nat) (seq cseq seq' cseq' m hi lo : Byte) (payload : List Byte),
    (packet = Instr.pktSoh ∧ n = 128 ∨ packet = Instr.pktStx ∧ n = 1024) → payload.length = n →
    seq.toNat + cseq.toNat = 0xFF →
      (seq' ≠ seq → exec (packet (seq' :: cseq :: (payload ++ [hi, lo]))) s = .next
        { s with
          crcAcc := some (crc16 payload)
          results := s.results ++ [⟨.v, .packet .rejectSeq seq' (BitVec.ofNat 16 n)⟩] }) ∧
      (cseq' ≠ cseq → exec (packet (seq :: cseq' :: (payload ++ [hi, lo]))) s = .next
        { s with
          crcAcc := some (crc16 payload)
          results := s.results ++ [⟨.v, .packet .rejectSeq seq (BitVec.ofNat 16 n)⟩] }) ∧
      (exec (packet ((seq ^^^ m) :: (cseq ^^^ m) :: (payload ++ trailer payload))) s = .next
        { s with
          crcAcc := some (crc16 payload)
          results := s.results ++ [⟨.v, .packet .accept (seq ^^^ m) (BitVec.ofNat 16 n)⟩] }) ∧
      (m ≠ 0x00#8 → seq ^^^ m ≠ seq)

/-! ## Frames -/

/-- What the instructions of unit RB leave unchanged. `RB.WRITE` writes its own port's latches alone (its bytes reach
the store in the copy steps), `RB.READ` its own port's latches alone, `RB.FREE` and `RB.USED` nothing but their result
record; `RB.INIT` writes the ring registers and the store, and a failed one nothing but its result record. No byte of
the store changes but by a successful `RB.INIT`, and none of them touches the CRC accumulator. -/
def Obligations.RbInstructionsFrame : Prop :=
  (∀ (s t : State) (len : Nat) (data : List Byte), exec (.rbWrite len data) s = .next t →
    t = { s with portP := t.portP } ∧ ∀ a, t.store.read a = s.store.read a) ∧
  (∀ (s t : State) (maxLen : Nat), exec (.rbRead maxLen) s = .next t →
    t = { s with portC := t.portC } ∧ ∀ a, t.store.read a = s.store.read a) ∧
  (∀ (s t : State) (q : RbPort), exec (.rbFree q) s = .next t ∨ exec (.rbUsed q) s = .next t →
    t = { s with results := t.results } ∧ ∀ a, t.store.read a = s.store.read a) ∧
  (∀ (s t : State) (sp : Bool) (capacity : Nat), exec (.rbInit sp capacity) s = .next t →
    t.portP = s.portP ∧ t.portC = s.portC ∧ t.crcAcc = s.crcAcc ∧ t.idxW = s.idxW ∧ t.agenda = s.agenda ∧
      t.refusals = s.refusals ∧
      ((sp = false ∨ capacity = 0) → t = { s with results := t.results } ∧ ∀ a, t.store.read a = s.store.read a))

/-- What the instructions of unit CRC leave unchanged: all of unit RB, its registers, its latches and every byte of its
store. `CRC.CLR` and `CRC.UPD` write the accumulator alone, `CRC.FIN`, `PKT.SOH` and `PKT.STX` the accumulator and
their result record, `PKT.CTL` its result record alone. -/
def Obligations.CrcInstructionsFrame : Prop :=
  ∀ (s t : State),
    (∀ b, exec .crcClr s = .next t ∨ exec (.crcUpd b) s = .next t →
      t = { s with crcAcc := t.crcAcc } ∧ ∀ a, t.store.read a = s.store.read a) ∧
    (∀ body, exec .crcFin s = .next t ∨ exec (.pktSoh body) s = .next t ∨ exec (.pktStx body) s = .next t →
      t = { s with crcAcc := t.crcAcc, results := t.results } ∧ ∀ a, t.store.read a = s.store.read a) ∧
    (∀ i ∈ [Instr.pktEot, .pktAck, .pktNak, .pktCan, .pktAbort1, .pktCrcReq, .pktAbort2], exec i s = .next t →
      t = { s with results := t.results } ∧ ∀ a, t.store.read a = s.store.read a)

/-- What the steps of a write and a read in flight leave unchanged (R67, R68, R71, R72): a write copy changes one cell,
`ea(RB_WR, P_I)`, and its own latches; no other step changes a byte of the store; a write step leaves the read index,
agent C's latches and the accumulator alone, a read step the write index, agent P's latches and the accumulator. -/
def Obligations.DataStepsFrame : Prop :=
  (∀ (s t : State) (l : WriteLatch) (cap wr : Nat), s.portP = .copy l → s.rbCap = some cap → s.rbWr = some wr →
    advanceP s = .next t →
      t.rbInited = s.rbInited ∧ t.rbCap = s.rbCap ∧ t.rbRd = s.rbRd ∧ t.portC = s.portC ∧ t.crcAcc = s.crcAcc ∧
      t.idxW = s.idxW ∧ t.agenda = s.agenda ∧ t.refusals = s.refusals ∧
      (l.i < l.n →
        t.rbWr = s.rbWr ∧ t.rbFree = s.rbFree ∧ t.results = s.results ∧
        ∀ a, a ≠ ea cap wr l.i → t.store.read a = s.store.read a) ∧
      (l.i = l.n → ∀ a, t.store.read a = s.store.read a)) ∧
  (∀ (s t : State) (l : ReadLatch), s.portC = .copy l → advanceC s = .next t →
      t.rbInited = s.rbInited ∧ t.rbCap = s.rbCap ∧ t.rbWr = s.rbWr ∧ t.portP = s.portP ∧ t.crcAcc = s.crcAcc ∧
      t.idxW = s.idxW ∧ t.agenda = s.agenda ∧ t.refusals = s.refusals ∧
      (∀ a, t.store.read a = s.store.read a) ∧
      (l.i < l.n → t.rbRd = s.rbRd ∧ t.rbFree = s.rbFree ∧ t.results = s.results))

/-- The two units share no state and no data path (R2): an event of one unit does the same whatever the other unit
holds, and leaves it alone. -/
def Obligations.UnitsAreIndependent : Prop :=
  (∀ (s u : State) (e : Event) (rest : List Event), s.agenda = e :: rest → e.ofUnitRb = true →
    step (s.withCrcOf u) = mapNext (fun t => t.withCrcOf u) (step s) ∧
      ∀ t, step s = .next t → t.crcAcc = s.crcAcc) ∧
  (∀ (s u : State) (e : Event) (rest : List Event), s.agenda = e :: rest → e.ofUnitCrc = true →
    step (s.withRbOf u) = mapNext (fun t => t.withRbOf u) (step s) ∧
      ∀ t, step s = .next t → t = t.withRbOf s)
end

