-- ==== Sys2Proof/Laws/Memory.lean ====
section
/-! SUPPORT. The backing store: a read after a write to the same cell gives the byte written, a write leaves every other
cell alone, and every write keeps the canonical form. -/

namespace Sys2Proof.Machine

@[simp] theorem Memory.read_nil (a : Nat) : Memory.read [] a = none := rfl

@[simp] theorem Memory.wf_nil : Memory.wf [] = true := rfl

theorem Memory.read_write_same (m : Memory) (a : Nat) (v : Byte) : (m.write a v).read a = some v := by
  induction m with
  | nil => simp [Memory.write, Memory.read]
  | cons c rest ih =>
    obtain ⟨b, w⟩ := c
    unfold Memory.write
    split
    · simp [Memory.read]
    · split
      · simp [Memory.read]
      · rename_i hne
        simp [Memory.read, hne, ih]

theorem Memory.read_write_other (m : Memory) {a b : Nat} (v : Byte) (h : b ≠ a) :
    (m.write a v).read b = m.read b := by
  induction m with
  | nil => simp [Memory.write, Memory.read, h]
  | cons c rest ih =>
    obtain ⟨d, w⟩ := c
    unfold Memory.write
    split
    · simp [Memory.read, h]
    · split
      · rename_i hd
        subst hd
        simp [Memory.read, h]
      · by_cases hb : b = d <;> simp [Memory.read, hb, ih]

theorem Memory.read_write (m : Memory) (a b : Nat) (v : Byte) :
    (m.write a v).read b = if b = a then some v else m.read b := by
  by_cases h : b = a
  · subst h; simp [Memory.read_write_same]
  · simp [h, Memory.read_write_other m v h]

theorem Memory.all_write {p : Host.Cell → Bool} {m : Memory} {a : Nat} {v : Byte} (hm : m.all p = true)
    (ha : p (a, v) = true) : (m.write a v).all p = true := by
  induction m with
  | nil => simp [Memory.write, ha]
  | cons c rest ih =>
    obtain ⟨b, w⟩ := c
    simp only [List.all_cons, Bool.and_eq_true] at hm
    unfold Memory.write
    split
    · simp [ha, hm]
    · split
      · simp [ha, hm]
      · simp [hm, ih hm.2]

theorem Memory.write_wf {m : Memory} (hm : m.wf = true) (a : Nat) (v : Byte) : (m.write a v).wf = true := by
  induction m with
  | nil => simp [Memory.write, Memory.wf]
  | cons c rest ih =>
    obtain ⟨b, w⟩ := c
    simp only [Memory.wf, Bool.and_eq_true] at hm
    unfold Memory.write
    split
    · rename_i hab
      have hall : (rest.all fun c => decide (a < c.1)) = true := by
        have h := hm.1
        simp only [List.all_eq_true, decide_eq_true_eq] at h ⊢
        exact fun x hx => lt_trans hab (h x hx)
      simp [Memory.wf, hab, hall, hm]
    · split
      · rename_i hab
        subst hab
        simp [Memory.wf, hm]
      · rename_i h1 h2
        have hlt : b < a := by omega
        simp [Memory.wf, ih hm.2, Memory.all_write hm.1 (v := v) (a := a) (by simpa using hlt)]

/-- A cell below every listed address holds no value. -/
theorem Memory.read_none_of_all {m : Memory} {a : Nat} (h : (m.all fun c => decide (a < c.1)) = true) :
    m.read a = none := by
  induction m with
  | nil => rfl
  | cons c rest ih =>
    obtain ⟨b, w⟩ := c
    simp only [List.all_cons, Bool.and_eq_true, decide_eq_true_eq] at h
    simp [Memory.read, Nat.ne_of_lt h.1, ih h.2]

/-- If every listed address is below `n`, only cells below `n` hold a value. -/
theorem Memory.lt_of_read_isSome {m : Memory} {n a : Nat} (h : (m.all fun c => decide (c.1 < n)) = true)
    (ha : (m.read a).isSome = true) : a < n := by
  induction m with
  | nil => simp at ha
  | cons c rest ih =>
    obtain ⟨b, w⟩ := c
    simp only [List.all_cons, Bool.and_eq_true, decide_eq_true_eq] at h
    by_cases hab : a = b
    · omega
    · exact ih h.2 (by simpa [Memory.read, hab] using ha)

end Sys2Proof.Machine
end

