-- ==== Sys2Proof/Laws/State.lean ====
section
/-! SUPPORT. One lemma per field per update of the state, each true by unfolding, so that no later proof unfolds a
record update. -/

namespace Sys2Proof.Machine

/-! ## State.deliver -/

@[simp] theorem State.deliver_rbInited (s : State) (port : Port) (r : Result) :
    (s.deliver port r).rbInited = s.rbInited := rfl
@[simp] theorem State.deliver_rbCap (s : State) (port : Port) (r : Result) :
    (s.deliver port r).rbCap = s.rbCap := rfl
@[simp] theorem State.deliver_rbWr (s : State) (port : Port) (r : Result) :
    (s.deliver port r).rbWr = s.rbWr := rfl
@[simp] theorem State.deliver_rbRd (s : State) (port : Port) (r : Result) :
    (s.deliver port r).rbRd = s.rbRd := rfl
@[simp] theorem State.deliver_rbFree (s : State) (port : Port) (r : Result) :
    (s.deliver port r).rbFree = s.rbFree := rfl
@[simp] theorem State.deliver_store (s : State) (port : Port) (r : Result) :
    (s.deliver port r).store = s.store := rfl
@[simp] theorem State.deliver_portP (s : State) (port : Port) (r : Result) :
    (s.deliver port r).portP = s.portP := rfl
@[simp] theorem State.deliver_portC (s : State) (port : Port) (r : Result) :
    (s.deliver port r).portC = s.portC := rfl
@[simp] theorem State.deliver_crcAcc (s : State) (port : Port) (r : Result) :
    (s.deliver port r).crcAcc = s.crcAcc := rfl
@[simp] theorem State.deliver_idxW (s : State) (port : Port) (r : Result) :
    (s.deliver port r).idxW = s.idxW := rfl
@[simp] theorem State.deliver_agenda (s : State) (port : Port) (r : Result) :
    (s.deliver port r).agenda = s.agenda := rfl
@[simp] theorem State.deliver_results (s : State) (port : Port) (r : Result) :
    (s.deliver port r).results = s.results ++ [⟨port, r⟩] := rfl
@[simp] theorem State.deliver_refusals (s : State) (port : Port) (r : Result) :
    (s.deliver port r).refusals = s.refusals := rfl

/-! ## State.mark -/

@[simp] theorem State.mark_rbInited (s : State) (port : Port) (r : Refusal) :
    (s.mark port r).rbInited = s.rbInited := rfl
@[simp] theorem State.mark_rbCap (s : State) (port : Port) (r : Refusal) :
    (s.mark port r).rbCap = s.rbCap := rfl
@[simp] theorem State.mark_rbWr (s : State) (port : Port) (r : Refusal) :
    (s.mark port r).rbWr = s.rbWr := rfl
@[simp] theorem State.mark_rbRd (s : State) (port : Port) (r : Refusal) :
    (s.mark port r).rbRd = s.rbRd := rfl
@[simp] theorem State.mark_rbFree (s : State) (port : Port) (r : Refusal) :
    (s.mark port r).rbFree = s.rbFree := rfl
@[simp] theorem State.mark_store (s : State) (port : Port) (r : Refusal) :
    (s.mark port r).store = s.store := rfl
@[simp] theorem State.mark_portP (s : State) (port : Port) (r : Refusal) :
    (s.mark port r).portP = s.portP := rfl
@[simp] theorem State.mark_portC (s : State) (port : Port) (r : Refusal) :
    (s.mark port r).portC = s.portC := rfl
@[simp] theorem State.mark_crcAcc (s : State) (port : Port) (r : Refusal) :
    (s.mark port r).crcAcc = s.crcAcc := rfl
@[simp] theorem State.mark_idxW (s : State) (port : Port) (r : Refusal) :
    (s.mark port r).idxW = s.idxW := rfl
@[simp] theorem State.mark_agenda (s : State) (port : Port) (r : Refusal) :
    (s.mark port r).agenda = s.agenda := rfl
@[simp] theorem State.mark_results (s : State) (port : Port) (r : Refusal) :
    (s.mark port r).results = s.results := rfl
@[simp] theorem State.mark_refusals (s : State) (port : Port) (r : Refusal) :
    (s.mark port r).refusals = s.refusals ++ [⟨port, r⟩] := rfl

/-! ## State.withAgenda -/

@[simp] theorem State.withAgenda_rbInited (s : State) (es : List Event) :
    (s.withAgenda es).rbInited = s.rbInited := rfl
@[simp] theorem State.withAgenda_rbCap (s : State) (es : List Event) :
    (s.withAgenda es).rbCap = s.rbCap := rfl
@[simp] theorem State.withAgenda_rbWr (s : State) (es : List Event) :
    (s.withAgenda es).rbWr = s.rbWr := rfl
@[simp] theorem State.withAgenda_rbRd (s : State) (es : List Event) :
    (s.withAgenda es).rbRd = s.rbRd := rfl
@[simp] theorem State.withAgenda_rbFree (s : State) (es : List Event) :
    (s.withAgenda es).rbFree = s.rbFree := rfl
@[simp] theorem State.withAgenda_store (s : State) (es : List Event) :
    (s.withAgenda es).store = s.store := rfl
@[simp] theorem State.withAgenda_portP (s : State) (es : List Event) :
    (s.withAgenda es).portP = s.portP := rfl
@[simp] theorem State.withAgenda_portC (s : State) (es : List Event) :
    (s.withAgenda es).portC = s.portC := rfl
@[simp] theorem State.withAgenda_crcAcc (s : State) (es : List Event) :
    (s.withAgenda es).crcAcc = s.crcAcc := rfl
@[simp] theorem State.withAgenda_idxW (s : State) (es : List Event) :
    (s.withAgenda es).idxW = s.idxW := rfl
@[simp] theorem State.withAgenda_agenda (s : State) (es : List Event) :
    (s.withAgenda es).agenda = es := rfl
@[simp] theorem State.withAgenda_results (s : State) (es : List Event) :
    (s.withAgenda es).results = s.results := rfl
@[simp] theorem State.withAgenda_refusals (s : State) (es : List Event) :
    (s.withAgenda es).refusals = s.refusals := rfl

/-! ## State.initBuffer -/

@[simp] theorem State.initBuffer_rbInited (s : State) (cap : Nat) :
    (s.initBuffer cap).rbInited = true := rfl
@[simp] theorem State.initBuffer_rbCap (s : State) (cap : Nat) :
    (s.initBuffer cap).rbCap = some cap := rfl
@[simp] theorem State.initBuffer_rbWr (s : State) (cap : Nat) :
    (s.initBuffer cap).rbWr = some 0 := rfl
@[simp] theorem State.initBuffer_rbRd (s : State) (cap : Nat) :
    (s.initBuffer cap).rbRd = some 0 := rfl
@[simp] theorem State.initBuffer_rbFree (s : State) (cap : Nat) :
    (s.initBuffer cap).rbFree = some cap := rfl
@[simp] theorem State.initBuffer_store (s : State) (cap : Nat) :
    (s.initBuffer cap).store = [] := rfl
@[simp] theorem State.initBuffer_portP (s : State) (cap : Nat) :
    (s.initBuffer cap).portP = s.portP := rfl
@[simp] theorem State.initBuffer_portC (s : State) (cap : Nat) :
    (s.initBuffer cap).portC = s.portC := rfl
@[simp] theorem State.initBuffer_crcAcc (s : State) (cap : Nat) :
    (s.initBuffer cap).crcAcc = s.crcAcc := rfl
@[simp] theorem State.initBuffer_idxW (s : State) (cap : Nat) :
    (s.initBuffer cap).idxW = s.idxW := rfl
@[simp] theorem State.initBuffer_agenda (s : State) (cap : Nat) :
    (s.initBuffer cap).agenda = s.agenda := rfl
@[simp] theorem State.initBuffer_results (s : State) (cap : Nat) :
    (s.initBuffer cap).results = s.results := rfl
@[simp] theorem State.initBuffer_refusals (s : State) (cap : Nat) :
    (s.initBuffer cap).refusals = s.refusals := rfl

/-! ## State.setPortP -/

@[simp] theorem State.setPortP_rbInited (s : State) (ph : WritePhase) :
    (s.setPortP ph).rbInited = s.rbInited := rfl
@[simp] theorem State.setPortP_rbCap (s : State) (ph : WritePhase) :
    (s.setPortP ph).rbCap = s.rbCap := rfl
@[simp] theorem State.setPortP_rbWr (s : State) (ph : WritePhase) :
    (s.setPortP ph).rbWr = s.rbWr := rfl
@[simp] theorem State.setPortP_rbRd (s : State) (ph : WritePhase) :
    (s.setPortP ph).rbRd = s.rbRd := rfl
@[simp] theorem State.setPortP_rbFree (s : State) (ph : WritePhase) :
    (s.setPortP ph).rbFree = s.rbFree := rfl
@[simp] theorem State.setPortP_store (s : State) (ph : WritePhase) :
    (s.setPortP ph).store = s.store := rfl
@[simp] theorem State.setPortP_portP (s : State) (ph : WritePhase) :
    (s.setPortP ph).portP = ph := rfl
@[simp] theorem State.setPortP_portC (s : State) (ph : WritePhase) :
    (s.setPortP ph).portC = s.portC := rfl
@[simp] theorem State.setPortP_crcAcc (s : State) (ph : WritePhase) :
    (s.setPortP ph).crcAcc = s.crcAcc := rfl
@[simp] theorem State.setPortP_idxW (s : State) (ph : WritePhase) :
    (s.setPortP ph).idxW = s.idxW := rfl
@[simp] theorem State.setPortP_agenda (s : State) (ph : WritePhase) :
    (s.setPortP ph).agenda = s.agenda := rfl
@[simp] theorem State.setPortP_results (s : State) (ph : WritePhase) :
    (s.setPortP ph).results = s.results := rfl
@[simp] theorem State.setPortP_refusals (s : State) (ph : WritePhase) :
    (s.setPortP ph).refusals = s.refusals := rfl

/-! ## State.setPortC -/

@[simp] theorem State.setPortC_rbInited (s : State) (ph : ReadPhase) :
    (s.setPortC ph).rbInited = s.rbInited := rfl
@[simp] theorem State.setPortC_rbCap (s : State) (ph : ReadPhase) :
    (s.setPortC ph).rbCap = s.rbCap := rfl
@[simp] theorem State.setPortC_rbWr (s : State) (ph : ReadPhase) :
    (s.setPortC ph).rbWr = s.rbWr := rfl
@[simp] theorem State.setPortC_rbRd (s : State) (ph : ReadPhase) :
    (s.setPortC ph).rbRd = s.rbRd := rfl
@[simp] theorem State.setPortC_rbFree (s : State) (ph : ReadPhase) :
    (s.setPortC ph).rbFree = s.rbFree := rfl
@[simp] theorem State.setPortC_store (s : State) (ph : ReadPhase) :
    (s.setPortC ph).store = s.store := rfl
@[simp] theorem State.setPortC_portP (s : State) (ph : ReadPhase) :
    (s.setPortC ph).portP = s.portP := rfl
@[simp] theorem State.setPortC_portC (s : State) (ph : ReadPhase) :
    (s.setPortC ph).portC = ph := rfl
@[simp] theorem State.setPortC_crcAcc (s : State) (ph : ReadPhase) :
    (s.setPortC ph).crcAcc = s.crcAcc := rfl
@[simp] theorem State.setPortC_idxW (s : State) (ph : ReadPhase) :
    (s.setPortC ph).idxW = s.idxW := rfl
@[simp] theorem State.setPortC_agenda (s : State) (ph : ReadPhase) :
    (s.setPortC ph).agenda = s.agenda := rfl
@[simp] theorem State.setPortC_results (s : State) (ph : ReadPhase) :
    (s.setPortC ph).results = s.results := rfl
@[simp] theorem State.setPortC_refusals (s : State) (ph : ReadPhase) :
    (s.setPortC ph).refusals = s.refusals := rfl

/-! ## State.setStore -/

@[simp] theorem State.setStore_rbInited (s : State) (m : Memory) :
    (s.setStore m).rbInited = s.rbInited := rfl
@[simp] theorem State.setStore_rbCap (s : State) (m : Memory) :
    (s.setStore m).rbCap = s.rbCap := rfl
@[simp] theorem State.setStore_rbWr (s : State) (m : Memory) :
    (s.setStore m).rbWr = s.rbWr := rfl
@[simp] theorem State.setStore_rbRd (s : State) (m : Memory) :
    (s.setStore m).rbRd = s.rbRd := rfl
@[simp] theorem State.setStore_rbFree (s : State) (m : Memory) :
    (s.setStore m).rbFree = s.rbFree := rfl
@[simp] theorem State.setStore_store (s : State) (m : Memory) :
    (s.setStore m).store = m := rfl
@[simp] theorem State.setStore_portP (s : State) (m : Memory) :
    (s.setStore m).portP = s.portP := rfl
@[simp] theorem State.setStore_portC (s : State) (m : Memory) :
    (s.setStore m).portC = s.portC := rfl
@[simp] theorem State.setStore_crcAcc (s : State) (m : Memory) :
    (s.setStore m).crcAcc = s.crcAcc := rfl
@[simp] theorem State.setStore_idxW (s : State) (m : Memory) :
    (s.setStore m).idxW = s.idxW := rfl
@[simp] theorem State.setStore_agenda (s : State) (m : Memory) :
    (s.setStore m).agenda = s.agenda := rfl
@[simp] theorem State.setStore_results (s : State) (m : Memory) :
    (s.setStore m).results = s.results := rfl
@[simp] theorem State.setStore_refusals (s : State) (m : Memory) :
    (s.setStore m).refusals = s.refusals := rfl

/-! ## State.setCrc -/

@[simp] theorem State.setCrc_rbInited (s : State) (c : CrcWord) :
    (s.setCrc c).rbInited = s.rbInited := rfl
@[simp] theorem State.setCrc_rbCap (s : State) (c : CrcWord) :
    (s.setCrc c).rbCap = s.rbCap := rfl
@[simp] theorem State.setCrc_rbWr (s : State) (c : CrcWord) :
    (s.setCrc c).rbWr = s.rbWr := rfl
@[simp] theorem State.setCrc_rbRd (s : State) (c : CrcWord) :
    (s.setCrc c).rbRd = s.rbRd := rfl
@[simp] theorem State.setCrc_rbFree (s : State) (c : CrcWord) :
    (s.setCrc c).rbFree = s.rbFree := rfl
@[simp] theorem State.setCrc_store (s : State) (c : CrcWord) :
    (s.setCrc c).store = s.store := rfl
@[simp] theorem State.setCrc_portP (s : State) (c : CrcWord) :
    (s.setCrc c).portP = s.portP := rfl
@[simp] theorem State.setCrc_portC (s : State) (c : CrcWord) :
    (s.setCrc c).portC = s.portC := rfl
@[simp] theorem State.setCrc_crcAcc (s : State) (c : CrcWord) :
    (s.setCrc c).crcAcc = some c := rfl
@[simp] theorem State.setCrc_idxW (s : State) (c : CrcWord) :
    (s.setCrc c).idxW = s.idxW := rfl
@[simp] theorem State.setCrc_agenda (s : State) (c : CrcWord) :
    (s.setCrc c).agenda = s.agenda := rfl
@[simp] theorem State.setCrc_results (s : State) (c : CrcWord) :
    (s.setCrc c).results = s.results := rfl
@[simp] theorem State.setCrc_refusals (s : State) (c : CrcWord) :
    (s.setCrc c).refusals = s.refusals := rfl

/-! ## State.bookWrite -/

@[simp] theorem State.bookWrite_rbInited (s : State) (wr free : Nat) :
    (s.bookWrite wr free).rbInited = s.rbInited := rfl
@[simp] theorem State.bookWrite_rbCap (s : State) (wr free : Nat) :
    (s.bookWrite wr free).rbCap = s.rbCap := rfl
@[simp] theorem State.bookWrite_rbWr (s : State) (wr free : Nat) :
    (s.bookWrite wr free).rbWr = some wr := rfl
@[simp] theorem State.bookWrite_rbRd (s : State) (wr free : Nat) :
    (s.bookWrite wr free).rbRd = s.rbRd := rfl
@[simp] theorem State.bookWrite_rbFree (s : State) (wr free : Nat) :
    (s.bookWrite wr free).rbFree = some free := rfl
@[simp] theorem State.bookWrite_store (s : State) (wr free : Nat) :
    (s.bookWrite wr free).store = s.store := rfl
@[simp] theorem State.bookWrite_portP (s : State) (wr free : Nat) :
    (s.bookWrite wr free).portP = s.portP := rfl
@[simp] theorem State.bookWrite_portC (s : State) (wr free : Nat) :
    (s.bookWrite wr free).portC = s.portC := rfl
@[simp] theorem State.bookWrite_crcAcc (s : State) (wr free : Nat) :
    (s.bookWrite wr free).crcAcc = s.crcAcc := rfl
@[simp] theorem State.bookWrite_idxW (s : State) (wr free : Nat) :
    (s.bookWrite wr free).idxW = s.idxW := rfl
@[simp] theorem State.bookWrite_agenda (s : State) (wr free : Nat) :
    (s.bookWrite wr free).agenda = s.agenda := rfl
@[simp] theorem State.bookWrite_results (s : State) (wr free : Nat) :
    (s.bookWrite wr free).results = s.results := rfl
@[simp] theorem State.bookWrite_refusals (s : State) (wr free : Nat) :
    (s.bookWrite wr free).refusals = s.refusals := rfl

/-! ## State.bookRead -/

@[simp] theorem State.bookRead_rbInited (s : State) (rd free : Nat) :
    (s.bookRead rd free).rbInited = s.rbInited := rfl
@[simp] theorem State.bookRead_rbCap (s : State) (rd free : Nat) :
    (s.bookRead rd free).rbCap = s.rbCap := rfl
@[simp] theorem State.bookRead_rbWr (s : State) (rd free : Nat) :
    (s.bookRead rd free).rbWr = s.rbWr := rfl
@[simp] theorem State.bookRead_rbRd (s : State) (rd free : Nat) :
    (s.bookRead rd free).rbRd = some rd := rfl
@[simp] theorem State.bookRead_rbFree (s : State) (rd free : Nat) :
    (s.bookRead rd free).rbFree = some free := rfl
@[simp] theorem State.bookRead_store (s : State) (rd free : Nat) :
    (s.bookRead rd free).store = s.store := rfl
@[simp] theorem State.bookRead_portP (s : State) (rd free : Nat) :
    (s.bookRead rd free).portP = s.portP := rfl
@[simp] theorem State.bookRead_portC (s : State) (rd free : Nat) :
    (s.bookRead rd free).portC = s.portC := rfl
@[simp] theorem State.bookRead_crcAcc (s : State) (rd free : Nat) :
    (s.bookRead rd free).crcAcc = s.crcAcc := rfl
@[simp] theorem State.bookRead_idxW (s : State) (rd free : Nat) :
    (s.bookRead rd free).idxW = s.idxW := rfl
@[simp] theorem State.bookRead_agenda (s : State) (rd free : Nat) :
    (s.bookRead rd free).agenda = s.agenda := rfl
@[simp] theorem State.bookRead_results (s : State) (rd free : Nat) :
    (s.bookRead rd free).results = s.results := rfl
@[simp] theorem State.bookRead_refusals (s : State) (rd free : Nat) :
    (s.bookRead rd free).refusals = s.refusals := rfl

/-! ## State.resetBlock -/

@[simp] theorem State.resetBlock_rbInited (s : State) :
    s.resetBlock.rbInited = false := rfl
@[simp] theorem State.resetBlock_rbCap (s : State) :
    s.resetBlock.rbCap = none := rfl
@[simp] theorem State.resetBlock_rbWr (s : State) :
    s.resetBlock.rbWr = none := rfl
@[simp] theorem State.resetBlock_rbRd (s : State) :
    s.resetBlock.rbRd = none := rfl
@[simp] theorem State.resetBlock_rbFree (s : State) :
    s.resetBlock.rbFree = none := rfl
@[simp] theorem State.resetBlock_store (s : State) :
    s.resetBlock.store = [] := rfl
@[simp] theorem State.resetBlock_portP (s : State) :
    s.resetBlock.portP = .idle := rfl
@[simp] theorem State.resetBlock_portC (s : State) :
    s.resetBlock.portC = .idle := rfl
@[simp] theorem State.resetBlock_crcAcc (s : State) :
    s.resetBlock.crcAcc = none := rfl
@[simp] theorem State.resetBlock_idxW (s : State) :
    s.resetBlock.idxW = s.idxW := rfl
@[simp] theorem State.resetBlock_agenda (s : State) :
    s.resetBlock.agenda = s.agenda := rfl
@[simp] theorem State.resetBlock_results (s : State) :
    s.resetBlock.results = s.results := rfl
@[simp] theorem State.resetBlock_refusals (s : State) :
    s.resetBlock.refusals = s.refusals := rfl

end Sys2Proof.Machine
end

