-- ==== Sys2Proof/Laws/Ops.lean ====
section
/-! SUPPORT. What each shared operation can do, said once: if it answers a value, then these conditions held and that
is the value. -/

namespace Sys2Proof.Machine

@[simp] theorem andThen_next {α β : Type} (a : α) (k : α → Res β) : andThen (.next a) k = k a := rfl

@[simp] theorem andThen_fault {α β : Type} (f : Fault) (k : α → Res β) :
    andThen (.fault f : Res α) k = .fault f := rfl

@[simp] theorem andThen_refused {α β : Type} (r : Refusal) (k : α → Res β) :
    andThen (.refused r : Res α) k = .refused r := rfl

/-- A sequence answers exactly when both its parts do. -/
theorem andThen_eq_next {α β : Type} {x : Res α} {k : α → Res β} {b : β} :
    andThen x k = .next b ↔ ∃ a, x = .next a ∧ k a = .next b := by
  cases x <;> simp [andThen]

theorem readRegister_eq_next {name : Register} {v : Option Nat} {x : Nat} :
    readRegister name v = .next x ↔ v = some x := by
  cases v <;> simp [readRegister]

@[simp] theorem readRegister_some (name : Register) (x : Nat) : readRegister name (some x) = .next x := rfl

theorem State.readAcc_eq_next {s : State} {c : CrcWord} : s.readAcc = .next c ↔ s.crcAcc = some c := by
  unfold State.readAcc
  cases s.crcAcc <;> simp

theorem requireInit_eq_next {s : State} {u : Unit} : requireInit s = .next u ↔ s.rbInited = true := by
  unfold requireInit
  split <;> simp_all

theorem requirePortIdle_eq_next {q : RbPort} {s : State} {u : Unit} :
    requirePortIdle q s = .next u ↔ s.busyAt q = false := by
  unfold requirePortIdle
  split <;> simp_all

theorem State.busyP_eq_false {s : State} : s.busyP = false ↔ s.portP = .idle := by
  simp [State.busyP]

theorem State.busyC_eq_false {s : State} : s.busyC = false ↔ s.portC = .idle := by
  simp [State.busyC]

theorem requireBothIdle_eq_next {s : State} {u : Unit} :
    requireBothIdle s = .next u ↔ s.portP = .idle ∧ s.portC = .idle := by
  unfold requireBothIdle
  rw [← State.busyP_eq_false, ← State.busyC_eq_false]
  cases s.busyP <;> cases s.busyC <;> simp

theorem usedCount_eq_next {cap free u : Nat} : usedCount cap free = .next u ↔ free ≤ cap ∧ u = cap - free := by
  unfold usedCount
  split <;> simp_all [eq_comm]

theorem takeFree_eq_next {free n x : Nat} : takeFree free n = .next x ↔ n ≤ free ∧ x = free - n := by
  unfold takeFree
  split <;> simp_all [eq_comm]

theorem giveFree_eq_next {cap free n x : Nat} : giveFree cap free n = .next x ↔ free + n ≤ cap ∧ x = free + n := by
  unfold giveFree
  split <;> simp_all [eq_comm]

/-- A store read answers exactly when the buffer exists, the cell is one of its cells and holds the byte (R35). -/
theorem storeRead_eq_next {a : Nat} {s : State} {b : Byte} :
    storeRead a s = .next b ↔
      s.rbInited = true ∧ ∃ cap, s.rbCap = some cap ∧ a < cap ∧ s.store.read a = some b := by
  simp only [storeRead, andThen_eq_next, requireInit_eq_next, State.readCap, readRegister_eq_next]
  constructor
  · rintro ⟨-, hi, cap, hc, h⟩
    split at h
    · refine ⟨hi, cap, hc, ‹_›, ?_⟩
      cases hr : s.store.read a <;> simp_all
    · simp at h
  · rintro ⟨hi, cap, hc, hlt, hr⟩
    exact ⟨(), hi, cap, hc, by simp [hlt, hr]⟩

/-- A store write answers exactly when the buffer exists and the cell is one of its cells, and changes that cell alone
(R36). -/
theorem storeWrite_eq_next {a : Nat} {v : Byte} {s t : State} :
    storeWrite a v s = .next t ↔
      s.rbInited = true ∧ ∃ cap, s.rbCap = some cap ∧ a < cap ∧ t = s.setStore (s.store.write a v) := by
  simp only [storeWrite, andThen_eq_next, requireInit_eq_next, State.readCap, readRegister_eq_next]
  constructor
  · rintro ⟨-, hi, cap, hc, h⟩
    split at h
    · exact ⟨hi, cap, hc, ‹_›, by simpa [eq_comm] using h⟩
    · simp at h
  · rintro ⟨hi, cap, hc, hlt, rfl⟩
    exact ⟨(), hi, cap, hc, by simp [hlt]⟩

/-- What a request's outcome becomes: it stands, or it was a refusal of R109 and left its mark. -/
theorem settle_eq_next {port : Port} {s t : State} {o : Res State} :
    settle port s o = .next t ↔ o = .next t ∨ ∃ r, o = .refused r ∧ r.ofSpec = true ∧ t = s.mark port r := by
  cases o with
  | next u => simp [settle]
  | fault f => simp [settle]
  | refused r =>
    by_cases hr : r.ofSpec = true
    · simp [settle, hr, eq_comm (b := t)]
    · simp [settle, hr]

end Sys2Proof.Machine
end

