-- ==== Sys2Proof/Laws/Crc.lean ====
section
/-! SUPPORT. Unit CRC: the loop of R82 as a fold, and one inversion lemma per operation. -/

namespace Sys2Proof.Machine

theorem crcThen_eq {α : Type} (c : CrcWord) (k : CrcWord → α) : crcThen c k = k c := by
  have hc : BitVec.ofNat 16 c.toNat = c := by simp
  unfold crcThen
  split
  · rename_i h
    rw [h] at hc
    rw [← hc]
  · rename_i n h
    rw [h] at hc
    exact congrArg k hc

@[simp] theorem crcFeed_nil (c : CrcWord) : crcFeed c [] = c := rfl

@[simp] theorem crcFeed_cons (c : CrcWord) (b : Byte) (d : List Byte) :
    crcFeed c (b :: d) = crcFeed (crcUpdate c b) d := by
  conv_lhs => unfold crcFeed
  exact crcThen_eq _ _

theorem crcFeed_eq_foldl (c : CrcWord) (d : List Byte) : crcFeed c d = d.foldl crcUpdate c := by
  induction d generalizing c with
  | nil => rfl
  | cons b d ih => simp [ih]

theorem crcFeed_append (c : CrcWord) (d e : List Byte) : crcFeed c (d ++ e) = crcFeed (crcFeed c d) e := by
  simp [crcFeed_eq_foldl]

theorem execCrcUpd_next {b : Byte} {s t : State} (h : execCrcUpd b s = .next t) :
    ∃ c, s.crcAcc = some c ∧ t = s.setCrc (crcUpdate c b) := by
  simp only [execCrcUpd, andThen_eq_next, State.readAcc_eq_next] at h
  obtain ⟨c, hc, h⟩ := h
  exact ⟨c, hc, by simpa [eq_comm] using h⟩

theorem execCrcFin_next {s t : State} (h : execCrcFin s = .next t) :
    ∃ c, s.crcAcc = some c ∧ t = (s.setCrc (crcFinish c)).deliver .v (.crc (crcFinish c)) := by
  simp only [execCrcFin, andThen_eq_next, State.readAcc_eq_next] at h
  obtain ⟨c, hc, h⟩ := h
  exact ⟨c, hc, by simpa [eq_comm] using h⟩

/-- A packet's fields exist exactly for a frame of the right length, and are those of R60. -/
theorem assemblePacket_eq_some {n : Nat} {t seq cseq hi lo : Byte} {payload : List Byte} (h : payload.length = n) :
    assemblePacket n (t :: seq :: cseq :: (payload ++ [hi, lo])) = some ⟨seq, cseq, payload, hi ++ lo⟩ := by
  subst h
  simp [assemblePacket]

theorem checkPacket_next {type : Byte} {n : Nat} {body : List Byte} {s t : State}
    (h : checkPacket type n body s = .next t) :
    ∃ f, assemblePacket n (type :: body) = some f ∧
      t = (s.setCrc (crc16 f.payload)).deliver .v
        (.packet (verdictOf f (crc16 f.payload)) f.seq (BitVec.ofNat 16 n)) := by
  unfold checkPacket at h
  split at h
  · simp at h
  · exact ⟨_, ‹_›, by simpa [eq_comm] using h⟩

end Sys2Proof.Machine
end

