-- ==== Sys2Proof/Laws/Operands.lean ====
section
/-! SUPPORT. The effective index and the cells of a copy: an effective index is a cell of the store, and different byte
numbers of one copy have different cells. -/

namespace Sys2Proof.Machine

/-- A sum of two numbers below `cap` needs at most one subtraction of `cap`. -/
theorem add_mod_eq_ite {cap b k : Nat} (hb : b < cap) (hk : k < cap) :
    (b + k) % cap = if b + k < cap then b + k else b + k - cap := by
  split
  · exact Nat.mod_eq_of_lt ‹_›
  · rw [Nat.mod_eq_sub_mod (by omega), Nat.mod_eq_of_lt (by omega)]

theorem ea_lt {cap base k : Nat} (h : 0 < cap) : ea cap base k < cap := Nat.mod_lt _ h

/-- Two bytes of one copy never share a cell (R37). -/
theorem ea_inj {cap base j k : Nat} (hb : base < cap) (hj : j < cap) (hk : k < cap)
    (h : ea cap base j = ea cap base k) : j = k := by
  unfold ea at h
  rw [add_mod_eq_ite hb hj, add_mod_eq_ite hb hk] at h
  split at h <;> split at h <;> omega

@[simp] theorem copyCells_length (cap base n : Nat) : (copyCells cap base n).length = n := by simp [copyCells]

theorem mem_copyCells {cap base n a : Nat} : a ∈ copyCells cap base n ↔ ∃ k < n, ea cap base k = a := by
  simp [copyCells]

end Sys2Proof.Machine
end

