-- ==== Sys2Proof/Laws/PerInstr.lean ====
section
/-! SUPPORT. Facts about every operation as syntax, one lemma per constructor. -/

namespace Sys2Proof.Laws.EncodedOp

/-- The operation byte of an encoded operation, at the port it is requested at, selects the operation's own row, and
no other row of the table has that byte (R49, R50). -/
def Statement (i : Instr) : Prop :=
  lookupOp (encode i).1 (encode i).2.op = some i.name ∧
    ∀ row ∈ opTable, row.op = (encode i).2.op → row.name = i.name

theorem rbInit (storagePresent : Bool) (capacity : Nat) : Statement (.rbInit storagePresent capacity) := by
  simp only [Statement, encode, Instr.name]; decide

theorem rbWrite (len : Nat) (data : List Byte) : Statement (.rbWrite len data) := by
  simp only [Statement, encode, Instr.name]; decide

theorem rbRead (maxLen : Nat) : Statement (.rbRead maxLen) := by
  simp only [Statement, encode, Instr.name]; decide

theorem rbFree (port : RbPort) : Statement (.rbFree port) := by
  revert port; unfold Statement; intro port; cases port <;> decide

theorem rbUsed (port : RbPort) : Statement (.rbUsed port) := by
  revert port; unfold Statement; intro port; cases port <;> decide

theorem crcClr : Statement .crcClr := by
  unfold Statement; decide

theorem crcUpd (b : Byte) : Statement (.crcUpd b) := by
  simp only [Statement, encode, Instr.name]; decide

theorem crcFin : Statement .crcFin := by
  unfold Statement; decide

theorem pktSoh (body : List Byte) : Statement (.pktSoh body) := by
  simp only [Statement, encode, Instr.name]; decide

theorem pktStx (body : List Byte) : Statement (.pktStx body) := by
  simp only [Statement, encode, Instr.name]; decide

theorem pktEot : Statement .pktEot := by
  unfold Statement; decide

theorem pktAck : Statement .pktAck := by
  unfold Statement; decide

theorem pktNak : Statement .pktNak := by
  unfold Statement; decide

theorem pktCan : Statement .pktCan := by
  unfold Statement; decide

theorem pktAbort1 : Statement .pktAbort1 := by
  unfold Statement; decide

theorem pktCrcReq : Statement .pktCrcReq := by
  unfold Statement; decide

theorem pktAbort2 : Statement .pktAbort2 := by
  unfold Statement; decide

end Sys2Proof.Laws.EncodedOp
end

