-- ==== Sys2Proof/Laws/RingBuffer.lean ====
section
/-! SUPPORT. One inversion lemma per operation and step of unit RB: if it answers a next state, then these conditions
held and this is the state. -/

namespace Sys2Proof.Machine

theorem execRbInit_next {sp : Bool} {cap : Nat} {s t : State} (h : execRbInit sp cap s = .next t) :
    s.portP = .idle ∧ s.portC = .idle ∧
      (((sp = false ∨ cap = 0) ∧ t = s.deliver .cfg (.status .invalidArgument)) ∨
        (sp = true ∧ 0 < cap ∧ t = (s.initBuffer cap).deliver .cfg (.status .ok))) := by
  simp only [execRbInit, andThen_eq_next, requireBothIdle_eq_next] at h
  obtain ⟨-, ⟨hp, hc⟩, h⟩ := h
  refine ⟨hp, hc, ?_⟩
  split at h
  · exact .inl ⟨‹_›, by simpa [eq_comm] using h⟩
  · rename_i hn
    push Not at hn
    exact .inr ⟨by simpa using hn.1, Nat.pos_of_ne_zero hn.2, by simpa [eq_comm] using h⟩

theorem pSnap_next {len : Nat} {data : List Byte} {s t : State} (h : pSnap len data s = .next t) :
    s.rbInited = true ∧ s.portP = .idle ∧
      ∃ f, s.rbFree = some f ∧ t = s.setPortP (.copy ⟨len, data, acceptCount len f, 0⟩) := by
  simp only [pSnap, andThen_eq_next, requireInit_eq_next, requirePortIdle_eq_next, State.busyAt,
    State.busyP_eq_false, State.readFree, readRegister_eq_next] at h
  obtain ⟨-, hi, -, hp, f, hf, h⟩ := h
  exact ⟨hi, hp, f, hf, by simpa [eq_comm] using h⟩

theorem pCopy_next {l : WriteLatch} {s t : State} (h : pCopy l s = .next t) :
    l.i < l.n ∧ s.rbInited = true ∧ ∃ cap wr b, s.rbCap = some cap ∧ s.rbWr = some wr ∧ l.data[l.i]? = some b ∧
      ea cap wr l.i < cap ∧
      t = (s.setStore (s.store.write (ea cap wr l.i) b)).setPortP (.copy { l with i := l.i + 1 }) := by
  unfold pCopy at h
  split at h
  · rename_i hlt
    simp only [andThen_eq_next, State.readCap, State.readWr, readRegister_eq_next, storeWrite_eq_next] at h
    obtain ⟨cap, hc, wr, hw, b, hb, u, ⟨hi, cap', hc', hea, rfl⟩, h⟩ := h
    obtain rfl : cap = cap' := by simpa [hc] using hc'
    refine ⟨hlt, hi, cap, wr, b, hc, hw, ?_, hea, by simpa [eq_comm] using h⟩
    unfold WriteLatch.current at hb
    cases hd : l.data[l.i]? <;> simp_all
  · simp at h

theorem pCommit_next {l : WriteLatch} {s t : State} (h : pCommit l s = .next t) :
    l.i = l.n ∧ ∃ cap wr free, s.rbCap = some cap ∧ s.rbWr = some wr ∧ s.rbFree = some free ∧ l.n ≤ free ∧
      t = ((s.bookWrite (advanceIndex cap wr l.n) (free - l.n)).setPortP .idle).deliver .p (.written l.n) := by
  unfold pCommit at h
  split at h
  · rename_i heq
    simp only [andThen_eq_next, State.readCap, State.readWr, State.readFree, readRegister_eq_next,
      takeFree_eq_next] at h
    obtain ⟨cap, hc, wr, hw, free, hf, -, ⟨hle, rfl⟩, h⟩ := h
    exact ⟨heq, cap, wr, free, hc, hw, hf, hle, by simpa [eq_comm] using h⟩
  · simp at h

theorem advanceP_next {s t : State} (h : advanceP s = .next t) :
    (s.portP = .idle ∧ t = s) ∨
      ∃ l, s.portP = .copy l ∧ ((l.i < l.n ∧ pCopy l s = .next t) ∨ (l.i = l.n ∧ pCommit l s = .next t)) := by
  unfold advanceP at h
  split at h
  · exact .inl ⟨‹_›, by simpa [eq_comm] using h⟩
  · rename_i l hl
    refine .inr ⟨l, hl, ?_⟩
    split at h
    · exact .inl ⟨‹_›, h⟩
    · exact .inr ⟨(pCommit_next h).1, h⟩

theorem cSnap_next {maxLen : Nat} {s t : State} (h : cSnap maxLen s = .next t) :
    s.rbInited = true ∧ s.portC = .idle ∧
      ∃ cap f, s.rbCap = some cap ∧ s.rbFree = some f ∧ f ≤ cap ∧
        t = s.setPortC (.copy ⟨maxLen, deliverCount (cap - f) maxLen, 0, []⟩) := by
  simp only [cSnap, andThen_eq_next, requireInit_eq_next, requirePortIdle_eq_next, State.busyAt,
    State.busyC_eq_false, State.readFree, State.readCap, readRegister_eq_next, usedCount_eq_next] at h
  obtain ⟨-, hi, -, hp, f, hf, cap, hc, -, ⟨hle, rfl⟩, h⟩ := h
  exact ⟨hi, hp, cap, f, hc, hf, hle, by simpa [eq_comm] using h⟩

theorem cCopy_next {l : ReadLatch} {s t : State} (h : cCopy l s = .next t) :
    l.i < l.n ∧ s.rbInited = true ∧ ∃ cap rd b, s.rbCap = some cap ∧ s.rbRd = some rd ∧ ea cap rd l.i < cap ∧
      s.store.read (ea cap rd l.i) = some b ∧
      t = s.setPortC (.copy { l with i := l.i + 1, data := l.data ++ [b] }) := by
  unfold cCopy at h
  split at h
  · rename_i hlt
    simp only [andThen_eq_next, State.readCap, State.readRd, readRegister_eq_next, storeRead_eq_next] at h
    obtain ⟨cap, hc, rd, hr, b, ⟨hi, cap', hc', hea, hb⟩, h⟩ := h
    obtain rfl : cap = cap' := by simpa [hc] using hc'
    exact ⟨hlt, hi, cap, rd, b, hc, hr, hea, hb, by simpa [eq_comm] using h⟩
  · simp at h

theorem cCommit_next {l : ReadLatch} {s t : State} (h : cCommit l s = .next t) :
    l.i = l.n ∧ ∃ cap rd free, s.rbCap = some cap ∧ s.rbRd = some rd ∧ s.rbFree = some free ∧ free + l.n ≤ cap ∧
      t = ((s.bookRead (advanceIndex cap rd l.n) (free + l.n)).setPortC .idle).deliver .c
        (.read l.n (l.data.take l.n)) := by
  unfold cCommit at h
  split at h
  · rename_i heq
    simp only [andThen_eq_next, State.readCap, State.readRd, State.readFree, readRegister_eq_next,
      giveFree_eq_next] at h
    obtain ⟨cap, hc, rd, hr, free, hf, -, ⟨hle, rfl⟩, h⟩ := h
    exact ⟨heq, cap, rd, free, hc, hr, hf, hle, by simpa [eq_comm] using h⟩
  · simp at h

theorem advanceC_next {s t : State} (h : advanceC s = .next t) :
    (s.portC = .idle ∧ t = s) ∨
      ∃ l, s.portC = .copy l ∧ ((l.i < l.n ∧ cCopy l s = .next t) ∨ (l.i = l.n ∧ cCommit l s = .next t)) := by
  unfold advanceC at h
  split at h
  · exact .inl ⟨‹_›, by simpa [eq_comm] using h⟩
  · rename_i l hl
    refine .inr ⟨l, hl, ?_⟩
    split at h
    · exact .inl ⟨‹_›, h⟩
    · exact .inr ⟨(cCommit_next h).1, h⟩

theorem execRbFree_next {q : RbPort} {s t : State} (h : execRbFree q s = .next t) :
    s.rbInited = true ∧ s.busyAt q = false ∧ ∃ f, s.rbFree = some f ∧ t = s.deliver q.toPort (.count f) := by
  simp only [execRbFree, andThen_eq_next, requireInit_eq_next, requirePortIdle_eq_next, State.readFree,
    readRegister_eq_next] at h
  obtain ⟨-, hi, -, hq, f, hf, h⟩ := h
  exact ⟨hi, hq, f, hf, by simpa [eq_comm] using h⟩

theorem execRbUsed_next {q : RbPort} {s t : State} (h : execRbUsed q s = .next t) :
    s.rbInited = true ∧ s.busyAt q = false ∧ ∃ cap f, s.rbCap = some cap ∧ s.rbFree = some f ∧ f ≤ cap ∧
      t = s.deliver q.toPort (.count (cap - f)) := by
  simp only [execRbUsed, andThen_eq_next, requireInit_eq_next, requirePortIdle_eq_next, State.readFree,
    State.readCap, readRegister_eq_next, usedCount_eq_next] at h
  obtain ⟨-, hi, -, hq, f, hf, cap, hc, -, ⟨hle, rfl⟩, h⟩ := h
  exact ⟨hi, hq, cap, f, hc, hf, hle, by simpa [eq_comm] using h⟩

end Sys2Proof.Machine
end

