-- ==== Sys2Proof/Laws/Safety.lean ====
section
/-! SUPPORT. What an event does, at the grain of R13's writers: the steps of an agent and reset never create the buffer,
and an action that is an agent's step comes from that agent's event. -/

namespace Sys2Proof.Machine

@[simp] theorem advance_createsBuffer (a : DataAgent) (s : State) : (Event.advance a).createsBuffer s = false := rfl

@[simp] theorem advance_keepsBuffer (a : DataAgent) (s : State) : (Event.advance a).keepsBuffer s = true := by
  simp [Event.keepsBuffer]

@[simp] theorem reset_keepsBuffer (s : State) : Event.reset.keepsBuffer s = false := rfl

@[simp] theorem request_keepsBuffer (port : Port) (r : Record) (s : State) :
    (Event.request port r).keepsBuffer s = !(Event.request port r).createsBuffer s := by
  simp [Event.keepsBuffer]

theorem initSucceeds_eq_true {i : Instr} {s : State} :
    initSucceeds i s = true ↔ ∃ capacity, i = .rbInit true capacity ∧ capacity ≠ 0 ∧ s.busyP = false ∧ s.busyC = false := by
  cases i <;> simp [initSucceeds, and_assoc]

/-- A write copy or a write commit is agent P's own event. -/
theorem advance_of_action_write {e : Event} {s : State} (h : e.action s = .pCopy ∨ e.action s = .pCommit) :
    e = .advance .p := by
  revert h
  unfold Event.action
  split <;> (try split) <;> (try split_ifs) <;> simp

/-- A read copy or a read commit is agent C's own event. -/
theorem advance_of_action_read {e : Event} {s : State} (h : e.action s = .cCopy ∨ e.action s = .cCommit) :
    e = .advance .c := by
  revert h
  unfold Event.action
  split <;> (try split) <;> (try split_ifs) <;> simp

end Sys2Proof.Machine
end

