-- ==== Sys2Proof/Laws/Step.lean ====
section
/-! SUPPORT. What a step and a run of steps can do, said once: the event taken, the meaning run, and how a run unfolds.
-/

namespace Sys2Proof.Machine

/-- A step that answers a next state took the first event of the schedule, or found none. -/
theorem step_next {s t : State} (h : step s = .next t) :
    (s.agenda = [] ∧ t = s) ∨
      ∃ e rest, s.agenda = e :: rest ∧ takeEvent e (s.withAgenda rest) = .next t := by
  unfold step takeStep at h
  split at h
  · exact .inl ⟨‹_›, by simpa [eq_comm] using h⟩
  · exact .inr ⟨_, _, ‹_›, h⟩

/-- The step on a schedule whose first event is known. -/
theorem step_of_agenda {s : State} {e : Event} {rest : List Event} (h : s.agenda = e :: rest) :
    step s = takeEvent e (s.withAgenda rest) := by
  simp [step, takeStep, h]

/-- A request that answers a next state ran its operation, or was refused and left its mark. -/
theorem issue_next {port : Port} {r : Record} {s t : State} (h : issue port r s = .next t) :
    (∃ i, decode s.idxW port r = .ok i ∧ exec i s = .next t) ∨
      ∃ name : Refusal, name.ofSpec = true ∧ t = s.mark port name := by
  unfold issue at h
  split at h
  · rcases settle_eq_next.1 h with h | ⟨n, -, hn, rfl⟩
    · exact .inl ⟨_, ‹_›, h⟩
    · exact .inr ⟨n, hn, rfl⟩
  · rcases settle_eq_next.1 h with h | ⟨n, -, hn, rfl⟩
    · simp at h
    · exact .inr ⟨n, hn, rfl⟩

@[simp] theorem run_zero (s : State) : Sys2Proof.core.run 0 s = .next s := rfl

/-- A run is its first step and then the rest of the run. -/
theorem run_succ (k : Nat) (s : State) :
    Sys2Proof.core.run (k + 1) s = andThen (step s) fun t => Sys2Proof.core.run k t := by
  have h := Host.Core.run.eq_2 Sys2Proof.core s k
  rw [show Sys2Proof.core.run (k + 1) s = _ from h]
  cases hs : step s <;> (rw [show Sys2Proof.core.step s = _ from hs]; rfl)

theorem run_of_step {k : Nat} {s t : State} (h : step s = .next t) :
    Sys2Proof.core.run (k + 1) s = Sys2Proof.core.run k t := by
  rw [run_succ, h]
  rfl

theorem run_succ_next {k : Nat} {s t : State} (h : Sys2Proof.core.run (k + 1) s = .next t) :
    ∃ u, step s = .next u ∧ Sys2Proof.core.run k u = .next t := by
  rw [run_succ] at h
  exact andThen_eq_next.1 h

end Sys2Proof.Machine
end

