-- ==== Sys2Proof/Tests/Slice0.lean ====
section
/-! SUPPORT. Small tests: the well-formedness smoke test, one written-out record per operation, one-step results taken
from the vectors of 95_test_vectors.md, and for every statement a concrete witness of its hypotheses. -/

namespace Sys2Proof.Tests

open Sys2Proof.Machine

/-! ## Helpers -/

/-- The next state, if the outcome is one. -/
def after : Res State → Option State
  | .next t => some t
  | .fault _ => none
  | .refused _ => none

/-- The refusal, if the outcome is one. -/
def refusal : Res State → Option Refusal
  | .next _ => none
  | .fault _ => none
  | .refused r => some r

/-- What decoding answers, as plain data. -/
def decoded (idxW : Nat) (port : Port) (r : Record) : Option Instr :=
  match decode idxW port r with
  | .ok i => some i
  | .error _ => none

/-- Why decoding rejects, as plain data. -/
def rejected (idxW : Nat) (port : Port) (r : Record) : Option Reject :=
  match decode idxW port r with
  | .ok _ => none
  | .error e => some e

/-- A created buffer with both ports idle. -/
def ring (cap wr rd free : Nat) (m : Memory) : State :=
  { State.reset with rbInited := true, rbCap := some cap, rbWr := some wr, rbRd := some rd, rbFree := some free, store := m }

/-- The state after V-RB-2: five bytes queued in a buffer of eight cells. -/
def ringA : State := ring 8 5 0 3 [(0, 0x11#8), (1, 0x22#8), (2, 0x33#8), (3, 0x44#8), (4, 0x55#8)]

/-- The state before V-RB-4. -/
def ringB : State := ring 8 5 3 6 [(0, 0x11#8), (1, 0x22#8), (2, 0x33#8), (3, 0x44#8), (4, 0x55#8)]

/-- V-RB-I1 after `P.snap`: a write and a read in flight in a buffer of four cells. -/
def ringI1 : State :=
  { ring 4 3 0 1 [(0, 0x01#8), (1, 0x02#8), (2, 0x03#8)] with
    portP := .copy ⟨3, [0x04#8, 0x05#8, 0x06#8], 1, 0⟩
    portC := .copy ⟨4, 3, 1, [0x01#8]⟩ }

/-- V-RB-I3: a write of four bytes and a read of two, both fully copied. -/
def ringI3 : State :=
  { ring 8 5 3 6 [(0, 0xA4#8), (3, 0x44#8), (4, 0x55#8), (5, 0xA1#8), (6, 0xA2#8), (7, 0xA3#8)] with
    portP := .copy ⟨4, [0xA1#8, 0xA2#8, 0xA3#8, 0xA4#8], 4, 4⟩
    portC := .copy ⟨2, 2, 2, [0x44#8, 0x55#8]⟩ }

/-- V-EA-8 with the 100 bytes copied: `IDX_W = 8`, 255 cells, index 200. The byte values are 0. -/
def ringE8 : State :=
  { ring 255 200 200 255 [] with idxW := 8, portP := .copy ⟨100, List.replicate 100 0x00#8, 100, 100⟩ }

/-- `n` bytes of value `b`. -/
def fill (n : Nat) (b : Byte) : List Byte := List.replicate n b

/-- The body of V-PKT-3: sequence 01, 128 bytes 1A, the trailer F8 B0. -/
def bodyPkt3 : List Byte := 0x01#8 :: 0xFE#8 :: (fill 128 0x1A#8 ++ [0xF8#8, 0xB0#8])

/-- The state `s` with the events `es` to come. -/
def sched (s : State) (es : List Event) : State := s.withAgenda es

/-! ## Well-formedness smoke test: each check refuses an ill-formed term -/

theorem test_wf_init_capacity_too_wide : Instr.wellFormed 32 (.rbInit true 4294967296) = false := by decide
theorem test_wf_write_len_too_wide : Instr.wellFormed 1 (.rbWrite 2 [0x01#8, 0x02#8]) = false := by decide
theorem test_wf_write_len_mismatch : Instr.wellFormed 32 (.rbWrite 3 [0x01#8, 0x02#8]) = false := by decide
theorem test_wf_read_max_too_wide : Instr.wellFormed 8 (.rbRead 256) = false := by decide
theorem test_wf_accepts_widest :
    Instr.wellFormed 32 (.rbInit true 4294967295) = true ∧ Instr.wellFormed 32 (.rbRead 4294967295) = true ∧
    Instr.wellFormed 32 (.rbWrite 2 [0x01#8, 0x02#8]) = true ∧ Instr.wellFormed 32 (.rbWrite 0 []) = true := by decide

/-! ## Decoding: the records of 95_test_vectors.md, section 8, and the bytes of V-DEC-1 to V-DEC-13 -/

theorem test_decode_init : decoded 32 .cfg ⟨0x10#8, [.flag true, .index 8]⟩ = some (.rbInit true 8) := by decide
theorem test_decode_write :
    decoded 32 .p ⟨0x11#8, [.index 2, .bytes [0x01#8, 0x02#8]]⟩ = some (.rbWrite 2 [0x01#8, 0x02#8]) := by decide
theorem test_decode_read : decoded 32 .c ⟨0x12#8, [.index 10]⟩ = some (.rbRead 10) := by decide
theorem test_decode_free :
    decoded 32 .cfg ⟨0x13#8, []⟩ = some (.rbFree .cfg) ∧ decoded 32 .p ⟨0x13#8, []⟩ = some (.rbFree .p) ∧
    decoded 32 .c ⟨0x13#8, []⟩ = some (.rbFree .c) := by decide
theorem test_decode_used :
    decoded 32 .cfg ⟨0x14#8, []⟩ = some (.rbUsed .cfg) ∧ decoded 32 .p ⟨0x14#8, []⟩ = some (.rbUsed .p) ∧
    decoded 32 .c ⟨0x14#8, []⟩ = some (.rbUsed .c) := by decide
theorem test_decode_crc :
    decoded 32 .v ⟨0x20#8, []⟩ = some .crcClr ∧ decoded 32 .v ⟨0x21#8, [.byte 0x31#8]⟩ = some (.crcUpd 0x31#8) ∧
    decoded 32 .v ⟨0x22#8, []⟩ = some .crcFin := by decide
theorem test_decode_soh :
    decoded 32 .v ⟨0x01#8, [.bytes [0x00#8, 0xFF#8]]⟩ = some (.pktSoh [0x00#8, 0xFF#8]) := by decide
theorem test_decode_stx :
    decoded 32 .v ⟨0x02#8, [.bytes [0x01#8, 0xFE#8]]⟩ = some (.pktStx [0x01#8, 0xFE#8]) := by decide
theorem test_decode_ctl :
    [0x04#8, 0x06#8, 0x15#8, 0x18#8, 0x41#8, 0x43#8, 0x61#8].map (fun b => decoded 32 .v ⟨b, []⟩) =
      [some .pktEot, some .pktAck, some .pktNak, some .pktCan, some .pktAbort1, some .pktCrcReq,
        some .pktAbort2] := by decide

/-- V-DEC-9: both ends of every reserved range. -/
theorem test_decode_reserved :
    ([0x00#8, 0x03#8, 0x05#8, 0x07#8, 0x0F#8, 0x16#8, 0x17#8, 0x19#8, 0x1F#8, 0x23#8, 0x40#8, 0x42#8, 0x44#8, 0x60#8,
      0x62#8, 0xFF#8].all fun b => decide (rejected 32 .v ⟨b, []⟩ = some .invalidOp)) = true := by decide

/-- V-DEC-10 to V-DEC-13: listed bytes at ports that do not accept them. -/
theorem test_decode_wrong_port :
    ([0x10#8, 0x11#8, 0x12#8, 0x13#8, 0x14#8].all fun b => decide (rejected 32 .v ⟨b, []⟩ = some .invalidOp)) = true ∧
    ([0x10#8, 0x12#8, 0x20#8, 0x21#8, 0x22#8, 0x01#8, 0x02#8, 0x04#8].all
      fun b => decide (rejected 32 .p ⟨b, []⟩ = some .invalidOp)) = true ∧
    ([0x10#8, 0x11#8, 0x21#8, 0x01#8].all fun b => decide (rejected 32 .c ⟨b, []⟩ = some .invalidOp)) = true ∧
    ([0x11#8, 0x12#8, 0x20#8, 0x01#8, 0x18#8].all
      fun b => decide (rejected 32 .cfg ⟨b, []⟩ = some .invalidOp)) = true := by decide

/-- A record whose operands are not those of its format is no record of the spec. -/
theorem test_decode_malformed :
    rejected 32 .p ⟨0x11#8, [.index 3, .bytes [0x01#8]]⟩ = some .malformedRecord ∧
    rejected 8 .cfg ⟨0x10#8, [.flag true, .index 256]⟩ = some .malformedRecord ∧
    rejected 32 .v ⟨0x20#8, [.byte 0x00#8]⟩ = some .malformedRecord := by decide

/-- No two rows of the operation byte map share a byte. -/
theorem test_rows_distinct : (opTable.map (·.op)).Pairwise (· ≠ ·) := by decide

/-- A byte-serial frame is taken apart by its first byte (R59, R63). -/
theorem test_frame_records :
    recordOfFrame [0x01#8, 0x00#8, 0xFF#8] = some ⟨0x01#8, [.bytes [0x00#8, 0xFF#8]]⟩ ∧
    recordOfFrame [0x04#8] = some ⟨0x04#8, []⟩ ∧ recordOfFrame [] = none := by decide

/-- The pseudo-operations of R63 are the requests they expand into. -/
theorem test_pseudo_expansions :
    packetCheck [0x04#8] = some (.request .v ⟨0x04#8, []⟩) ∧
    packetCheck [0x01#8, 0x00#8, 0xFF#8] = some (.request .v ⟨0x01#8, [.bytes [0x00#8, 0xFF#8]]⟩) ∧
    rbStat .c = [.request .c ⟨0x13#8, []⟩, .request .c ⟨0x14#8, []⟩] ∧
    crcCalc [0x31#8] = [.request .v ⟨0x20#8, []⟩, .request .v ⟨0x21#8, [.byte 0x31#8]⟩, .request .v ⟨0x22#8, []⟩] := by
  decide

/-- The words of the opcode table. -/
theorem test_table_commands :
    [0x10, 0x11, 0x12, 0x13, 0x14, 0x20, 0x21, 0x22].map (decodeTableWord 8) =
      [some (.rbInit false 0), some (.rbWrite 0 []), some (.rbRead 0), some (.rbFree .cfg), some (.rbUsed .cfg),
        some .crcClr, some (.crcUpd 0x00#8), some .crcFin] := by decide
theorem test_table_control_bytes :
    [0x04, 0x06, 0x15, 0x18, 0x41, 0x43, 0x61].map (decodeTableWord 8) =
      [some .pktEot, some .pktAck, some .pktNak, some .pktCan, some .pktAbort1, some .pktCrcReq,
        some .pktAbort2] := by decide
theorem test_table_packets :
    decodeTableWord 8 0x01 = some (.pktSoh (fill 132 0x00#8)) ∧
    decodeTableWord 8 0x02 = some (.pktStx (fill 1028 0x00#8)) := by decide +kernel
theorem test_table_reserved : decodeTableWord 8 0x03 = none ∧ decodeTableWord 8 0xFF = none := by decide

/-- The next step runs the word that was placed. -/
theorem test_fetch_word_runs :
    (after (step (State.reset.withFetchWord 8 0x20))).map (·.crcAcc) = some (some 0x0000#16) ∧
    (after (step (State.reset.withFetchWord 8 0x10))).map (·.results) = some [⟨.cfg, .status .invalidArgument⟩] := by
  decide

/-! ## Unit RB, one step each -/

/-- V-RB-23. -/
theorem test_init_again :
    after (exec (.rbInit true 4) ringA) = some ((ring 4 0 0 4 []).deliver .cfg (.status .ok)) := by decide
/-- V-RB-22: a failed init keeps the buffer. -/
theorem test_init_fails :
    after (exec (.rbInit true 0) ringA) = some (ringA.deliver .cfg (.status .invalidArgument)) := by decide

/-- V-RB-I1: the snapshot cuts the write to the one free cell. -/
theorem test_write_snapshot :
    (after (exec (.rbWrite 3 [0x04#8, 0x05#8, 0x06#8]) (ring 4 3 0 1 []))).map (·.portP) =
      some (.copy ⟨3, [0x04#8, 0x05#8, 0x06#8], 1, 0⟩) := by decide
/-- V-RST-1. -/
theorem test_write_before_init : refusal (exec (.rbWrite 1 [0x00#8]) State.reset) = some .useBeforeInit := by decide

/-- V-RB-I1, `P.copy`: the byte goes to cell 3. -/
theorem test_write_copy :
    (after (advanceP ringI1)).map (·.store) = some [(0, 0x01#8), (1, 0x02#8), (2, 0x03#8), (3, 0x04#8)] := by decide
/-- V-EA-8: the carry is kept, `(200 + 100) mod 255 = 45`. -/
theorem test_write_commit_carry :
    (after (advanceP ringE8)).map (fun t => (t.rbWr, t.rbFree, t.portP)) = some (some 45, some 155, .idle) := by
  decide +kernel

/-- V-RB-I1, `C.snap`. -/
theorem test_read_snapshot :
    (after (exec (.rbRead 4) (ring 4 3 0 1 []))).map (·.portC) = some (.copy ⟨4, 3, 0, []⟩) := by decide
/-- V-RST-2: refused, not `n = 0`. -/
theorem test_read_before_init : refusal (exec (.rbRead 1) State.reset) = some .useBeforeInit := by decide

/-- V-RB-I1, the second `C.copy`. -/
theorem test_read_copy : (after (advanceC ringI1)).map (·.portC) = some (.copy ⟨4, 3, 2, [0x01#8, 0x02#8]⟩) := by
  decide
/-- V-RB-I3, `C.commit` first. -/
theorem test_read_commit :
    (after (advanceC ringI3)).map (fun t => (t.rbWr, t.rbRd, t.rbFree, t.results)) =
      some (some 5, some 5, some 8, [⟨.c, .read 2 [0x44#8, 0x55#8]⟩]) := by decide

/-- The example of R73, and V-RB-I4: `RB.FREE` at CFG answers while a write is in flight. -/
theorem test_free :
    (after (exec (.rbFree .cfg) ringA)).map (·.results) = some [⟨.cfg, .count 3⟩] ∧
    (after (exec (.rbFree .cfg) ringI1)).map (·.results) = some [⟨.cfg, .count 1⟩] := by decide
/-- V-RB-I4: `RB.FREE` at a busy port P. -/
theorem test_free_busy : refusal (exec (.rbFree .p) ringI1) = some .portBusy := by decide

/-- The example of R74. -/
theorem test_used : (after (exec (.rbUsed .cfg) ringA)).map (·.results) = some [⟨.cfg, .count 5⟩] := by decide
/-- V-RST-3: refused, not `count = 0`. -/
theorem test_used_before_init : refusal (exec (.rbUsed .cfg) State.reset) = some .useBeforeInit := by decide

/-- V-EA-1, V-EA-3 and V-EA-6: the two moves of a wrapped copy. -/
theorem test_wrap_split :
    wrapSplit 8 5 6 = (3, 3) ∧ copyCells 8 5 6 = [5, 6, 7, 0, 1, 2] ∧ splitCells 8 5 6 = [5, 6, 7, 0, 1, 2] ∧
    wrapSplit 4 2 2 = (2, 0) ∧ splitCells 4 2 2 = [2, 3] ∧ wrapSplit 4 1 0 = (0, 0) := by decide

/-- Program P6, line 9: a refused request leaves a mark, has no result, and the run goes on. -/
theorem test_refused_request_goes_on :
    after (step (sched ringI1 [.request .v ⟨0x13#8, []⟩])) = some (ringI1.mark .v .invalidOp) := by decide

/-- V-RST-9: reset loses a write in flight, with no result. -/
theorem test_reset_event : after (step (sched ringI1 [.reset])) = some State.reset := by decide

/-! ## Unit CRC, one step each -/

/-- The table V-CRC-U. -/
theorem test_crc_update :
    crcUpdate 0xFFFF#16 0x01#8 = 0xE1F1#16 ∧ crcUpdate 0x8000#16 0x80#8 = 0x9108#16 ∧
    crcUpdate 0x1234#16 0x31#8 = 0x0642#16 ∧ crcUpdate 0x0000#16 0xFF#8 = 0x00FF#16 := by decide +kernel

/-- V-CRC-1, V-CRC-3, V-CRC-7 and V-CRC-8. -/
theorem test_crc16 :
    crc16 [] = 0x0000#16 ∧ crc16 [0x01#8] = 0x1021#16 ∧ crc16 [0x01#8, 0x02#8] = 0x1373#16 ∧
    crc16 [0x31#8, 0x32#8, 0x33#8, 0x34#8, 0x35#8, 0x36#8, 0x37#8, 0x38#8, 0x39#8] = 0x31C3#16 := by decide +kernel

/-- The trailer of V-CRC-8, high byte first. -/
theorem test_trailer :
    trailer [0x31#8, 0x32#8, 0x33#8, 0x34#8, 0x35#8, 0x36#8, 0x37#8, 0x38#8, 0x39#8] = [0x31#8, 0xC3#8] := by
  decide +kernel

theorem test_crc_clr : (after (exec .crcClr State.reset)).map (·.crcAcc) = some (some 0x0000#16) := by decide
/-- Program P4, line 4, and V-CRC-S5. -/
theorem test_crc_upd :
    (after (exec (.crcUpd 0x33#8) (State.reset.setCrc 0x3132#16))).map (·.crcAcc) = some (some 0x1441#16) := by decide
theorem test_crc_upd_unwritten : refusal (exec (.crcUpd 0x31#8) State.reset) = some .unwrittenAccumulator := by decide
/-- Program P4, line 11, and V-CRC-S6. -/
theorem test_crc_fin :
    (after (exec .crcFin (State.reset.setCrc 0xBEEF#16))).map (fun t => (t.crcAcc, t.results)) =
      some (some 0x31C3#16, [⟨.v, .crc 0x31C3#16⟩]) := by decide +kernel
theorem test_crc_fin_unwritten : refusal (exec .crcFin State.reset) = some .unwrittenAccumulator := by decide

/-- V-PKT-3. -/
theorem test_soh_accept :
    (after (exec (.pktSoh bodyPkt3) State.reset)).map (fun t => (t.crcAcc, t.results)) =
      some (some 0xF8B0#16, [⟨.v, .packet .accept 0x01#8 128#16⟩]) := by decide +kernel
/-- V-PKT-6: both checks fail, the sequence decides; V-PKT-10: swapped trailer bytes. -/
theorem test_soh_reject :
    (after (exec (.pktSoh (0x01#8 :: 0xFD#8 :: (fill 128 0x1A#8 ++ [0xF8#8, 0xB1#8]))) State.reset)).map
      (fun t => (t.crcAcc, t.results)) = some (some 0xF8B0#16, [⟨.v, .packet .rejectSeq 0x01#8 128#16⟩]) ∧
    (after (exec (.pktSoh (0x01#8 :: 0xFE#8 :: (fill 128 0x1A#8 ++ [0xB0#8, 0xF8#8]))) State.reset)).map
      (fun t => (t.crcAcc, t.results)) = some (some 0xF8B0#16, [⟨.v, .packet .rejectCrc 0x01#8 128#16⟩]) := by
  decide +kernel
/-- V-PKT-2. -/
theorem test_stx_accept :
    (after (exec (.pktStx (0x01#8 :: 0xFE#8 :: (fill 1024 0x1A#8 ++ [0xFC#8, 0x96#8]))) State.reset)).map
      (fun t => (t.crcAcc, t.results)) = some (some 0xFC96#16, [⟨.v, .packet .accept 0x01#8 1024#16⟩]) := by
  decide +kernel
/-- V-PKT-21: the type byte fixes the length; V-PKT-20: one byte missing. -/
theorem test_bad_frame_length :
    refusal (exec (.pktStx bodyPkt3) State.reset) = some .badFrameLength ∧
    refusal (exec (.pktSoh (bodyPkt3.take 131)) State.reset) = some .badFrameLength := by decide +kernel
/-- V-PKT-22 and V-PKT-23, and the other control bytes: no state is read or written. -/
theorem test_control_bytes :
    ([Instr.pktEot, .pktAck, .pktNak, .pktCan, .pktAbort1, .pktCrcReq, .pktAbort2].all fun i =>
      decide (after (exec i ringI1) = some (ringI1.deliver .v (.packet .noCheck 0x00#8 0#16)))) = true := by decide

/-- The result codes of R101 and R102. -/
theorem test_codes :
    [Status.ok.code, Status.invalidArgument.code] = [0x00#8, 0x01#8] ∧
    [Verdict.accept.code, Verdict.rejectSeq.code, Verdict.rejectCrc.code, Verdict.noCheck.code] =
      [0x00#8, 0x01#8, 0x02#8, 0x03#8] := by decide

/-- A run that is at its end, one that is cut, and one that is no good run (R109, R129). -/
theorem test_run_ends :
    ringA.atEnd = true ∧ ringI1.atEnd = false ∧ ringA.goodRun = true ∧ (ringA.mark .p .portBusy).goodRun = false := by
  decide

/-! ## Witnesses: for every statement with hypotheses, a concrete state and operands that meet them -/

/-- The invariant of a state with a buffer, from checks that can be evaluated. -/
theorem inv_of_checks (s : State) (r : RingRegs)
    (hm : s.store.wf = true ∧ 0 < s.idxW)
    (hr : s.rbInited = true ∧ s.rbCap = some r.cap ∧ s.rbWr = some r.wr ∧ s.rbRd = some r.rd ∧ s.rbFree = some r.free)
    (hs : 0 < r.cap ∧ r.cap < 2 ^ s.idxW ∧ r.free ≤ r.cap ∧ r.wr < r.cap ∧ r.rd < r.cap ∧
      (r.rd + r.used) % r.cap = r.wr)
    (hu : ∀ k < r.used, (s.store.read (ea r.cap r.rd k)).isSome = true)
    (ha : (s.store.all fun c => decide (c.1 < r.cap)) = true)
    (hp : writeSound s.idxW r s.store s.portP) (hc : readSound s.idxW r s.store s.portC) : s.Inv :=
  ⟨hm.1, hm.2, .inr ⟨r, hr, hs, ⟨hu, fun _ h => Memory.lt_of_read_isSome ha h⟩, hp, hc⟩⟩

theorem wit_ringA_inv : ringA.Inv :=
  inv_of_checks ringA ⟨8, 5, 0, 3⟩ (by decide) (by decide) (by decide) (by decide) (by decide) trivial trivial

theorem wit_ringI1_inv : ringI1.Inv :=
  inv_of_checks ringI1 ⟨4, 3, 0, 1⟩ (by decide) (by decide) (by decide) (by decide) (by decide)
    (by simp only [writeSound, ringI1]; decide) (by simp only [readSound, ringI1]; decide)

theorem wit_ringI3_inv : ringI3.Inv :=
  inv_of_checks ringI3 ⟨8, 5, 3, 6⟩ (by decide) (by decide) (by decide) (by decide) (by decide)
    (by simp only [writeSound, ringI3]; decide) (by simp only [readSound, ringI3]; decide)

/-- An empty buffer of one cell. -/
theorem wit_ring_empty_inv : (ring 1 0 0 1 []).Inv :=
  inv_of_checks _ ⟨1, 0, 0, 1⟩ (by decide) (by decide) (by decide) (by decide) (by decide) trivial trivial

/-- A full buffer of one cell. -/
theorem wit_ring_full_inv : (ring 1 0 0 0 [(0, 0x09#8)]).Inv :=
  inv_of_checks _ ⟨1, 0, 0, 0⟩ (by decide) (by decide) (by decide) (by decide) (by decide) trivial trivial

theorem wit_DecodeOfEncodeIsIdentity :
    Instr.wellFormed 32 (.rbInit true 4294967295) = true ∧ Instr.wellFormed 32 (.rbRead 0) = true ∧
    Instr.wellFormed 32 (.rbWrite 1 [0xFF#8]) = true ∧ Instr.wellFormed 1 (.rbWrite 1 [0xFF#8]) = true ∧
    Instr.wellFormed 32 (.pktStx []) = true := by decide

theorem wit_EncodeOfDecodeIsIdentity :
    decode 32 .p ⟨0x11#8, [.index 1, .bytes [0x00#8]]⟩ = .ok (.rbWrite 1 [0x00#8]) ∧
    decode 32 .c ⟨0x13#8, []⟩ = .ok (.rbFree .c) := by decide

theorem wit_UnacceptedByteRefused :
    (sched ringI1 [.request .v ⟨0x13#8, []⟩]).agenda = [.request .v ⟨0x13#8, []⟩] ∧ 0x13#8 ∉ acceptedBytes .v ∧
    (sched ringI1 [.request .p ⟨0x00#8, []⟩]).agenda = [.request .p ⟨0x00#8, []⟩] ∧
    0x00#8 ∉ acceptedBytes .p := by decide

theorem wit_StepRunsNextEvent :
    (sched ringA [.request .cfg ⟨0x13#8, []⟩]).agenda = [.request .cfg ⟨0x13#8, []⟩] ∧
    decode ringA.idxW .cfg ⟨0x13#8, []⟩ = .ok (.rbFree .cfg) ∧
    (sched ringI1 [.advance .p]).agenda = [.advance .p] ∧ (sched ringI1 [.advance .c]).agenda = [.advance .c] ∧
    (sched ringI1 [.reset]).agenda = [.reset] ∧ ringA.agenda = [] := by decide

/-- One request refused under each of the five names that an operation can give. -/
theorem wit_RefusedRequestChangesNothing :
    refusal (exec (.rbRead 8) State.reset) = some .useBeforeInit ∧
    refusal (exec (.rbInit false 4) ringI1) = some .initWhileBusy ∧
    refusal (exec (.rbWrite 1 [0x03#8]) ringI1) = some .portBusy ∧
    refusal (exec (.pktSoh []) State.reset) = some .badFrameLength ∧
    refusal (exec (.crcUpd 0x00#8) State.reset) = some .unwrittenAccumulator ∧
    (sched State.reset [.request .c ⟨0x12#8, [.index 8]⟩]).agenda = [.request .c ⟨0x12#8, [.index 8]⟩] ∧
    decode State.reset.idxW .c ⟨0x12#8, [.index 8]⟩ = .ok (.rbRead 8) := by decide

/-- Both cases: a step that goes on, and a request that is no record of the spec. -/
theorem wit_StepAlwaysGoesOn :
    (sched ringI1 [.advance .p]).Inv ∧ (sched ringI1 [.request .v ⟨0x20#8, [.byte 0x00#8]⟩]).Inv ∧
    refusal (step (sched ringI1 [.request .v ⟨0x20#8, [.byte 0x00#8]⟩])) = some .malformedRecord :=
  ⟨wit_ringI1_inv, wit_ringI1_inv, by decide⟩

theorem wit_ResetEventAbandonsEverything : (sched ringI1 [.reset]).agenda = [.reset] := rfl

theorem wit_StepKeepsInvariant :
    (sched ringI1 [.advance .c]).Inv ∧ ∃ t, step (sched ringI1 [.advance .c]) = .next t :=
  ⟨wit_ringI1_inv, _, rfl⟩

theorem wit_StepKeepsStoreCanonical :
    (sched ringI1 [.advance .p]).store.wf = true ∧ ∃ t, step (sched ringI1 [.advance .p]) = .next t :=
  ⟨by decide, _, rfl⟩

theorem wit_CountInvariantAfterEveryStep :
    (sched ringI3 [.advance .p]).Inv ∧ ∃ t, step (sched ringI3 [.advance .p]) = .next t ∧ t.rbInited = true :=
  ⟨wit_ringI3_inv, _, rfl, rfl⟩

/-- With a register and a latch of each port holding a value afterwards. -/
theorem wit_EveryCountFitsItsWidth :
    (sched ringI1 [.advance .p]).Inv ∧
      ∃ t, step (sched ringI1 [.advance .p]) = .next t ∧ t.rbCap = some 4 ∧ t.portP ≠ .idle ∧ t.portC ≠ .idle :=
  ⟨wit_ringI1_inv, _, rfl, rfl, by decide, by decide⟩

/-- A commit of each agent, which changes an index and the free count; and the requests with byte 0x10 that keep the
buffer: a refused `RB.INIT`, a failed one, and the byte at a wrong port. -/
theorem wit_OnlyListedWritersChangeState :
    (sched ringI3 [.advance .p]).agenda = [.advance .p] ∧ (Event.advance .p).keepsBuffer ringI3 = true ∧
    (Event.advance .p).action ringI3 = .pCommit ∧
    (∃ t, step (sched ringI3 [.advance .p]) = .next t ∧ t.rbWr ≠ ringI3.rbWr ∧ t.rbFree ≠ ringI3.rbFree) ∧
    (Event.request .cfg ⟨0x10#8, [.flag true, .index 4]⟩).keepsBuffer ringI1 = true ∧
    (Event.request .cfg ⟨0x10#8, [.flag true, .index 0]⟩).keepsBuffer ringA = true ∧
    (Event.request .v ⟨0x10#8, []⟩).keepsBuffer ringA = true ∧
    (Event.request .cfg ⟨0x10#8, [.flag true, .index 4]⟩).createsBuffer ringA = true ∧
    (Event.request .cfg ⟨0x10#8, [.flag true, .index 4]⟩).keepsBuffer ringA = false :=
  ⟨rfl, by decide, by decide, ⟨_, rfl, by decide, by decide⟩, by decide⟩

theorem wit_InitCreatesBufferOrFails :
    ringI1.portP ≠ .idle ∧ ringI1.portC ≠ .idle ∧ ringA.portP = .idle ∧ ringA.portC = .idle ∧
    State.reset.portP = .idle ∧ State.reset.portC = .idle ∧ (1 : Nat) ≠ 0 := by decide

/-- With cells free, and in a full buffer. -/
theorem wit_WriteTakesSnapshot :
    ringA.rbInited = true ∧ ringA.portP = .idle ∧ ringA.rbFree = some 3 ∧
    (ring 1 0 0 0 [(0, 0x09#8)]).rbInited = true ∧ (ring 1 0 0 0 [(0, 0x09#8)]).portP = .idle ∧
    (ring 1 0 0 0 [(0, 0x09#8)]).rbFree = some 0 := by decide

theorem wit_WriteCopyStep :
    (sched ringI1 [.advance .p]).agenda = [.advance .p] ∧ ringI1.rbInited = true ∧
    ringI1.portP = .copy ⟨3, [0x04#8, 0x05#8, 0x06#8], 1, 0⟩ ∧ 0 < 1 ∧ ringI1.rbCap = some 4 ∧ 0 < 4 ∧
    ringI1.rbWr = some 3 ∧ [0x04#8, 0x05#8, 0x06#8][0]? = some 0x04#8 := by decide

/-- With a count that wraps the index, and with `P_N = 0` in a full buffer. -/
theorem wit_WriteCommitStep :
    (sched ringI3 [.advance .p]).agenda = [.advance .p] ∧
    ringI3.portP = .copy ⟨4, [0xA1#8, 0xA2#8, 0xA3#8, 0xA4#8], 4, 4⟩ ∧ ringI3.rbCap = some 8 ∧
    ringI3.rbWr = some 5 ∧ ringI3.rbFree = some 6 ∧ 4 ≤ 6 ∧
    ((ring 1 0 0 0 []).setPortP (.copy ⟨1, [0x07#8], 0, 0⟩)).portP = .copy ⟨1, [0x07#8], 0, 0⟩ ∧
    (ring 1 0 0 0 []).rbFree = some 0 ∧ 0 ≤ 0 := by decide

/-- With bytes queued, and in an empty buffer. -/
theorem wit_ReadTakesSnapshot :
    ringA.rbInited = true ∧ ringA.portC = .idle ∧ ringA.rbCap = some 8 ∧ ringA.rbFree = some 3 ∧ 3 ≤ 8 ∧
    (ring 1 0 0 1 []).portC = .idle ∧ (ring 1 0 0 1 []).rbCap = some 1 ∧ (ring 1 0 0 1 []).rbFree = some 1 := by decide

theorem wit_ReadCopyStep :
    (sched ringI1 [.advance .c]).agenda = [.advance .c] ∧ ringI1.rbInited = true ∧
    ringI1.portC = .copy ⟨4, 3, 1, [0x01#8]⟩ ∧ 1 < 3 ∧ ringI1.rbCap = some 4 ∧ 0 < 4 ∧ ringI1.rbRd = some 0 ∧
    ringI1.store.read ((0 + 1) % 4) = some 0x02#8 := by decide

theorem wit_ReadCommitStep :
    (sched ringI3 [.advance .c]).agenda = [.advance .c] ∧ ringI3.portC = .copy ⟨2, 2, 2, [0x44#8, 0x55#8]⟩ ∧
    ringI3.rbCap = some 8 ∧ ringI3.rbRd = some 3 ∧ ringI3.rbFree = some 6 ∧ 6 + 2 ≤ 8 := by decide

/-- Each clause: answered at all three ports, refused before init, refused at a busy port. -/
theorem wit_FreeReturnsFreeCount :
    ringA.rbInited = true ∧ ringA.portP = .idle ∧ ringA.portC = .idle ∧ ringA.rbFree = some 3 ∧
    State.reset.rbInited = false ∧ ringI1.rbInited = true ∧ ringI1.portP ≠ .idle ∧ ringI1.portC ≠ .idle := by decide

theorem wit_UsedReturnsUsedCount :
    ringA.rbInited = true ∧ ringA.portP = .idle ∧ ringA.portC = .idle ∧ ringA.rbCap = some 8 ∧
    ringA.rbFree = some 3 ∧ 3 ≤ 8 ∧ State.reset.rbInited = false ∧ ringI1.rbInited = true ∧ ringI1.portP ≠ .idle ∧
    ringI1.portC ≠ .idle := by decide

theorem wit_DataRequestsRefused :
    State.reset.rbInited = false ∧ ringI1.rbInited = true ∧ ringI1.portP ≠ .idle ∧ ringI1.portC ≠ .idle := by decide

/-- A write that is cut to the three free cells, and one into a full buffer. -/
theorem wit_WholeWriteNetEffect :
    (sched ringA (writeLine 4 (fill 4 0xEE#8) 3)).Inv ∧ ringA.hasRing ⟨8, 5, 0, 3⟩ ∧ ringA.portP = .idle ∧
    Instr.wellFormed ringA.idxW (.rbWrite 4 (fill 4 0xEE#8)) = true ∧
    (sched ringA (writeLine 4 (fill 4 0xEE#8) 3)).agenda = writeLine 4 (fill 4 0xEE#8) (min 4 3) ++ [] ∧
    (ring 1 0 0 0 [(0, 0x09#8)]).Inv ∧ (ring 1 0 0 0 [(0, 0x09#8)]).hasRing ⟨1, 0, 0, 0⟩ :=
  ⟨wit_ringA_inv, by unfold State.hasRing; decide, rfl, by decide, rfl, wit_ring_full_inv,
    by unfold State.hasRing; decide⟩

/-- A read of fewer bytes than are queued, and one from an empty buffer. -/
theorem wit_WholeReadNetEffect :
    (sched ringA (readLine 3 3)).Inv ∧ ringA.hasRing ⟨8, 5, 0, 3⟩ ∧ ringA.portC = .idle ∧
    Instr.wellFormed ringA.idxW (.rbRead 3) = true ∧
    (sched ringA (readLine 3 3)).agenda = readLine 3 (min (RingRegs.used ⟨8, 5, 0, 3⟩) 3) ++ [] ∧
    (ring 1 0 0 1 []).Inv ∧ (ring 1 0 0 1 []).hasRing ⟨1, 0, 0, 1⟩ :=
  ⟨wit_ringA_inv, by unfold State.hasRing; decide, rfl, by decide, rfl, wit_ring_empty_inv,
    by unfold State.hasRing; decide⟩

/-- The five bytes queued in `ringA`, and the schedules of the write and the read clause. -/
theorem wit_SequentialQueueLaw :
    (sched ringA (writeLine 4 (fill 4 0xEE#8) 3)).Inv ∧ (sched ringA (readLine 9 5)).Inv ∧
    ringA.hasRing ⟨8, 5, 0, 3⟩ ∧ ringA.portP = .idle ∧ ringA.portC = .idle ∧
    ringA.queue = [0x11#8, 0x22#8, 0x33#8, 0x44#8, 0x55#8] ∧
    writeLine 4 (fill 4 0xEE#8) 3 = writeLine 4 (fill 4 0xEE#8) (min 4 (8 - ringA.queue.length)) ++ [] ∧
    readLine 9 5 = readLine 9 (min ringA.queue.length 9) ++ [] ∧
    Instr.wellFormed ringA.idxW (.rbWrite 4 (fill 4 0xEE#8)) = true ∧
    Instr.wellFormed ringA.idxW (.rbRead 9) = true :=
  ⟨wit_ringA_inv, wit_ringA_inv, by unfold State.hasRing; decide, by decide⟩

/-- Two commits, of a write and a read in flight, and an empty buffer to start from. -/
theorem wit_FifoUnderEverySchedule :
    (sched ringI3 [.advance .p, .advance .c]).Inv ∧ ringI3.rbInited = true ∧
    keepsBufferFor 2 (sched ringI3 [.advance .p, .advance .c]) = true ∧
    (∃ t, Sys2Proof.core.run 2 (sched ringI3 [.advance .p, .advance .c]) = .next t) ∧
    (ring 1 0 0 1 []).Inv ∧ (ring 1 0 0 1 []).queue = [] :=
  ⟨wit_ringI3_inv, rfl, by decide, ⟨_, rfl⟩, wit_ring_empty_inv, rfl⟩

/-- Each clause: a write commit, a read commit, and a copy step, which is neither. -/
theorem wit_QueueChangesOnlyByCommits :
    (sched ringI3 [.advance .p]).Inv ∧ ringI3.rbInited = true ∧ (Event.advance .p).keepsBuffer ringI3 = true ∧
    (∃ t, step (sched ringI3 [.advance .p]) = .next t) ∧ (∃ t, step (sched ringI3 [.advance .c]) = .next t) ∧
    ringI3.portP = .copy ⟨4, [0xA1#8, 0xA2#8, 0xA3#8, 0xA4#8], 4, 4⟩ ∧
    ringI3.portC = .copy ⟨2, 2, 2, [0x44#8, 0x55#8]⟩ ∧
    (sched ringI1 [.advance .p]).Inv ∧ ringI1.portP = .copy ⟨3, [0x04#8, 0x05#8, 0x06#8], 1, 0⟩ ∧
    (∃ t, step (sched ringI1 [.advance .p]) = .next t) :=
  ⟨wit_ringI3_inv, rfl, rfl, ⟨_, rfl⟩, ⟨_, rfl⟩, rfl, rfl, wit_ringI1_inv, rfl, ⟨_, rfl⟩⟩

theorem wit_InFlightLatchesFixed :
    (sched ringI1 [.advance .c]).agenda = [.advance .c] ∧ (Event.advance .c).leavesWrite = true ∧
    ringI1.portP = .copy ⟨3, [0x04#8, 0x05#8, 0x06#8], 1, 0⟩ ∧
    (∃ t, step (sched ringI1 [.advance .c]) = .next t) ∧
    (sched ringI1 [.advance .p]).agenda = [.advance .p] ∧ (Event.advance .p).leavesRead = true ∧
    ringI1.portC = .copy ⟨4, 3, 1, [0x01#8]⟩ ∧ (∃ t, step (sched ringI1 [.advance .p]) = .next t) :=
  ⟨rfl, rfl, rfl, ⟨_, rfl⟩, rfl, rfl, rfl, ⟨_, rfl⟩⟩

/-- With copies left (`ringI1`) and with the commit alone left (`ringI3`). -/
theorem wit_OwnStepsCompleteOperation :
    (sched ringI1 [.advance .p, .advance .p]).Inv ∧
    ringI1.portP = .copy ⟨3, [0x04#8, 0x05#8, 0x06#8], 1, 0⟩ ∧
    (sched ringI1 [.advance .p, .advance .p]).agenda = List.replicate (1 - 0 + 1) (.advance .p) ++ [] ∧
    (sched ringI3 [.advance .c]).Inv ∧ ringI3.portC = .copy ⟨2, 2, 2, [0x44#8, 0x55#8]⟩ ∧
    (sched ringI3 [.advance .c]).agenda = List.replicate (2 - 2 + 1) (.advance .c) ++ [] :=
  ⟨wit_ringI1_inv, rfl, rfl, wit_ringI3_inv, rfl, rfl⟩

theorem wit_CommitsCommute :
    ringI3.Inv ∧ ringI3.portP = .copy ⟨4, [0xA1#8, 0xA2#8, 0xA3#8, 0xA4#8], 4, 4⟩ ∧
    ringI3.portC = .copy ⟨2, 2, 2, [0x44#8, 0x55#8]⟩ := ⟨wit_ringI3_inv, rfl, rfl⟩

theorem wit_RegionsSeparateTheAgents :
    ringI1.Inv ∧ ringI1.hasRing ⟨4, 3, 0, 1⟩ ∧ ringI1.portP = .copy ⟨3, [0x04#8, 0x05#8, 0x06#8], 1, 0⟩ ∧ 0 < 1 ∧
    ringI1.portC = .copy ⟨4, 3, 1, [0x01#8]⟩ ∧ 2 < 3 :=
  ⟨wit_ringI1_inv, by unfold State.hasRing; decide, by decide⟩

/-- Both sides of the equivalence occur: an empty buffer, a full one, and one that is neither. -/
theorem wit_EqualIndicesMeanEmptyOrFull :
    RingRegs.sound 32 ⟨4, 2, 2, 4⟩ ∧ RingRegs.sound 32 ⟨4, 2, 2, 0⟩ ∧ RingRegs.sound 32 ⟨4, 3, 0, 1⟩ := by
  unfold RingRegs.sound; decide

/-- The boundary of the split: a range that ends at the buffer end, and one that crosses it by a byte. -/
theorem wit_WrapSplitTouchesSameCells :
    2 < 4 ∧ 2 ≤ 4 ∧ (wrapSplit 4 2 2).2 = 0 ∧ 2 + 2 = 4 ∧ 3 ≤ 4 ∧ (wrapSplit 4 2 3).2 = 1 ∧ 2 + 3 > 4 := by decide

theorem wit_CrcUpdFeedsOneByte :
    (State.reset.setCrc 0xFFFF#16).crcAcc = some 0xFFFF#16 ∧ State.reset.crcAcc = none := by decide

theorem wit_CrcFinReturnsCrc :
    (State.reset.setCrc 0x0000#16).crcAcc = some 0x0000#16 ∧ State.reset.crcAcc = none := by decide

/-- With three bytes, and with none. -/
theorem wit_CrcStreamReturnsCrc16 :
    (sched State.reset (crcCalc [0x31#8, 0x32#8, 0x33#8])).agenda = crcCalc [0x31#8, 0x32#8, 0x33#8] ++ [] ∧
    (sched State.reset (crcCalc [])).agenda = crcCalc [] ++ [] := by decide

theorem wit_CrcIsLinear : [0x12#8, 0x34#8, 0x56#8].length = [0xAB#8, 0xCD#8, 0xEF#8].length := rfl

theorem wit_CrcDetectsOneByteChange : (0x1A#8 : Byte) ≠ 0x1B#8 := by decide

/-- The right length, and one byte too few and too many. -/
theorem wit_SohCheckVerdict :
    (fill 128 0x1A#8).length = 128 ∧ (0x01#8 :: fill 132 0x00#8).length = 133 ∧
    (0x01#8 :: fill 131 0x00#8).length ≠ 133 ∧ (0x01#8 :: fill 133 0x00#8).length ≠ 133 := by decide +kernel

theorem wit_StxCheckVerdict :
    (fill 1024 0x1A#8).length = 1024 ∧ (0x02#8 :: fill 1028 0x00#8).length = 1029 ∧
    (0x02#8 :: fill 1027 0x00#8).length ≠ 1029 ∧ (0x02#8 :: fill 1029 0x00#8).length ≠ 1029 := by decide +kernel

theorem wit_ControlBytesHaveNoCheck :
    Instr.pktEot ∈ [Instr.pktEot, .pktAck, .pktNak, .pktCan, .pktAbort1, .pktCrcReq, .pktAbort2] := by decide

theorem wit_RoundTripAccepted : (fill 128 0x00#8).length = 128 ∧ (fill 1024 0x00#8).length = 1024 := by
  decide +kernel

/-- V-PKT-11 and V-PKT-5: a payload byte changed, and a trailer byte changed; and a payload of 1024 bytes. -/
theorem wit_DamagedPayloadOrTrailerRejected :
    (fill 5 0x1A#8 ++ 0x1A#8 :: fill 122 0x1A#8).length = 128 ∧ (0x1A#8 : Byte) ≠ 0x1B#8 ∧
    [0xF8#8, 0xB1#8] ≠ trailer (fill 5 0x1A#8 ++ 0x1A#8 :: fill 122 0x1A#8) ∧
    (fill 100 0x1A#8 ++ 0x1A#8 :: fill 923 0x1A#8).length = 1024 ∧
    [0xFC#8, 0x97#8] ≠ trailer (fill 100 0x1A#8 ++ 0x1A#8 :: fill 923 0x1A#8) := by decide +kernel

theorem wit_DamagedSequenceRejected :
    (fill 128 0x1A#8).length = 128 ∧ (fill 1024 0x1A#8).length = 1024 ∧
    (0x01#8 : Byte).toNat + (0xFE#8 : Byte).toNat = 0xFF ∧ (0x03#8 : Byte) ≠ 0x01#8 ∧ (0xFD#8 : Byte) ≠ 0xFE#8 ∧
    (0x80#8 : Byte) ≠ 0x00#8 := by decide +kernel

/-- A next state of each instruction of unit RB, and both outcomes of `RB.INIT`. -/
theorem wit_RbInstructionsFrame :
    (∃ t, exec (.rbWrite 1 [0x66#8]) ringA = .next t) ∧ (∃ t, exec (.rbRead 2) ringA = .next t) ∧
    (∃ t, exec (.rbFree .p) ringA = .next t) ∧ (∃ t, exec (.rbUsed .c) ringA = .next t) ∧
    (∃ t, exec (.rbInit true 8) ringA = .next t) ∧ (∃ t, exec (.rbInit false 8) ringA = .next t) :=
  ⟨⟨_, rfl⟩, ⟨_, rfl⟩, ⟨_, rfl⟩, ⟨_, rfl⟩, ⟨_, rfl⟩, ⟨_, rfl⟩⟩

theorem wit_CrcInstructionsFrame :
    (∃ t, exec .crcClr ringA = .next t) ∧ (∃ t, exec (.crcUpd 0x31#8) (ringA.setCrc 0#16) = .next t) ∧
    (∃ t, exec .crcFin (ringA.setCrc 0#16) = .next t) ∧
    (after (exec (.pktSoh bodyPkt3) ringA)).isSome = true ∧
    (after (exec (.pktStx (fill 1028 0x00#8)) ringA)).isSome = true ∧ (∃ t, exec .pktEot ringA = .next t) :=
  ⟨⟨_, rfl⟩, ⟨_, rfl⟩, ⟨_, rfl⟩, by decide +kernel, by decide +kernel, ⟨_, rfl⟩⟩

/-- A copy and a commit of each agent. -/
theorem wit_DataStepsFrame :
    ringI1.portP = .copy ⟨3, [0x04#8, 0x05#8, 0x06#8], 1, 0⟩ ∧ ringI1.rbCap = some 4 ∧ ringI1.rbWr = some 3 ∧
    (∃ t, advanceP ringI1 = .next t) ∧ (∃ t, advanceP ringI3 = .next t) ∧
    ringI1.portC = .copy ⟨4, 3, 1, [0x01#8]⟩ ∧ (∃ t, advanceC ringI1 = .next t) ∧
    (∃ t, advanceC ringI3 = .next t) :=
  ⟨rfl, rfl, rfl, ⟨_, rfl⟩, ⟨_, rfl⟩, rfl, ⟨_, rfl⟩, ⟨_, rfl⟩⟩

theorem wit_UnitsAreIndependent :
    (sched ringI1 [.advance .p]).agenda = [.advance .p] ∧ (Event.advance .p).ofUnitRb = true ∧
    (∃ t, step (sched ringI1 [.advance .p]) = .next t) ∧
    (sched ringI1 [.request .v ⟨0x20#8, []⟩]).agenda = [.request .v ⟨0x20#8, []⟩] ∧
    (Event.request .v ⟨0x20#8, []⟩).ofUnitCrc = true ∧
    (∃ t, step (sched ringI1 [.request .v ⟨0x20#8, []⟩]) = .next t) :=
  ⟨rfl, rfl, ⟨_, rfl⟩, rfl, rfl, ⟨_, rfl⟩⟩

end Sys2Proof.Tests
end

section
/-! SUPPORT. The two units are independent (R2). For `f` a change of the other unit's state, each operation `op`
satisfies `op (f s) = mapNext f (op s)`: it does the same in the changed state. That it leaves the other unit alone is
the case where `f` puts in the state `s` already has, and so leaves `s` as it is. -/

namespace Sys2Proof

/-- A row of R50 of unit CRC: the rows accepted at port V (R49). -/
def OpName.ofUnitCrc : OpName → Bool
  | .rbInit | .rbWrite | .rbRead | .rbFree | .rbUsed => false
  | .crcClr | .crcUpd | .crcFin => true
  | .pktSoh | .pktStx => true
  | .pktEot | .pktAck | .pktNak | .pktCan | .pktAbort1 | .pktCrcReq | .pktAbort2 => true

/-- Port V accepts the rows of unit CRC, and every other port rows of unit RB (R49, R50). -/
theorem ofUnitCrc_of_mem_opTable :
    ∀ row ∈ opTable, ∀ port ∈ row.ports, row.name.ofUnitCrc = decide (port = .v) := by
  decide

theorem lookupOp_ofUnitCrc {port : Port} {op : Byte} {name : OpName} (h : lookupOp port op = some name) :
    name.ofUnitCrc = decide (port = .v) := by
  obtain ⟨row, hrow, rfl⟩ := Option.map_eq_some_iff.1 h
  have hmem : row ∈ opTable := List.mem_of_find?_eq_some hrow
  have hport : port ∈ row.ports := by
    have hfound := List.find?_some hrow
    simp only [Bool.and_eq_true, List.contains_iff_mem] at hfound
    exact hfound.2
  exact ofUnitCrc_of_mem_opTable row hmem port hport

theorem ifWellFormed_ok {idxW : Nat} {i j : Instr} (h : ifWellFormed idxW i = .ok j) : j = i := by
  unfold ifWellFormed at h
  split at h <;> cases h
  rfl

theorem noOperands_ok {i j : Instr} {operands : List Operand} (h : noOperands i operands = .ok j) : j = i := by
  cases operands <;> cases h
  rfl

theorem statusAt_ok {mk : RbPort → Instr} {port : Port} {operands : List Operand} {i : Instr}
    (h : statusAt mk port operands = .ok i) : ∃ q, i = mk q := by
  unfold statusAt at h
  split at h
  · exact ⟨_, noOperands_ok h⟩
  · cases h

/-- Operand assembly stays in the row it is given. -/
theorem assembleRecord_name {idxW : Nat} {port : Port} {name : OpName} {operands : List Operand} {i : Instr}
    (h : assembleRecord idxW port name operands = .ok i) : i.name = name := by
  cases name
  case rbFree | rbUsed =>
    obtain ⟨q, rfl⟩ := statusAt_ok h
    rfl
  case rbInit | rbWrite | rbRead =>
    simp only [assembleRecord] at h
    split at h
    · rw [ifWellFormed_ok h]; rfl
    · cases h
  case crcUpd | pktSoh | pktStx =>
    simp only [assembleRecord] at h
    split at h <;> cases h
    rfl
  all_goals rw [noOperands_ok h]; rfl

/-- A request at port V decodes to operations of unit CRC alone, and one at another port to operations of unit RB. -/
theorem decode_ofUnitCrc {idxW : Nat} {port : Port} {r : Record} {i : Instr} (h : decode idxW port r = .ok i) :
    i.name.ofUnitCrc = decide (port = .v) := by
  unfold decode at h
  split at h
  next name hname => rw [assembleRecord_name h, lookupOp_ofUnitCrc hname]
  next => cases h

end Sys2Proof

namespace Sys2Proof.Machine

/-! ## `mapNext` through the shared operations -/

@[simp] theorem mapNext_next (f : State → State) (s : State) : mapNext f (.next s) = .next (f s) := rfl

@[simp] theorem mapNext_fault (f : State → State) (x : Fault) : mapNext f (.fault x) = .fault x := rfl

@[simp] theorem mapNext_refused (f : State → State) (r : Refusal) : mapNext f (.refused r) = .refused r := rfl

theorem mapNext_andThen {α : Type} (f : State → State) (x : Res α) (k : α → Res State) :
    mapNext f (andThen x k) = andThen x fun a => mapNext f (k a) := by
  cases x <;> rfl

theorem andThen_mapNext (f : State → State) (x : Res State) (k : State → Res State) :
    andThen (mapNext f x) k = andThen x fun t => k (f t) := by
  cases x <;> rfl

theorem mapNext_ite (f : State → State) (p : Prop) [Decidable p] (x y : Res State) :
    mapNext f (if p then x else y) = if p then mapNext f x else mapNext f y :=
  apply_ite (mapNext f) p x y

/-- A step that commutes with `f` keeps a state that `f` leaves as it is so. -/
theorem eq_of_step_mapNext {f : State → State} {s t : State} (hf : f s = s)
    (hstep : step (f s) = mapNext f (step s)) (ht : step s = .next t) : t = f t := by
  rw [hf, ht] at hstep
  simpa using hstep

theorem settle_mapNext {f : State → State} {port : Port} {s : State}
    (hmark : ∀ r, (f s).mark port r = f (s.mark port r)) (o : Res State) :
    settle port (f s) (mapNext f o) = mapNext f (settle port s o) := by
  cases o with
  | next t => rfl
  | fault x => rfl
  | refused r => simp [settle, mapNext_ite, hmark]

/-- A request does the same after `f` if the operation it decodes to does, and `f` leaves the width and the marks
alone. -/
theorem issue_mapNext {f : State → State} {port : Port} {r : Record} {s : State} (hidxW : (f s).idxW = s.idxW)
    (hmark : ∀ n, (f s).mark port n = f (s.mark port n))
    (hexec : ∀ i, decode s.idxW port r = .ok i → exec i (f s) = mapNext f (exec i s)) :
    issue port r (f s) = mapNext f (issue port r s) := by
  unfold issue
  rw [hidxW]
  cases hd : decode s.idxW port r with
  | ok i =>
    simp only [hexec i hd]
    exact settle_mapNext hmark (exec i s)
  | error e => exact settle_mapNext hmark (.refused (rejectRefusal e))

/-! ## Unit RB under any unit CRC state -/

@[simp] theorem State.withCrcOf_self (s : State) : s.withCrcOf s = s := rfl

@[simp] theorem State.withCrcOf_crcAcc (s u : State) : (s.withCrcOf u).crcAcc = u.crcAcc := rfl

theorem storeWrite_withCrcOf (addr : Nat) (v : Byte) (s u : State) :
    storeWrite addr v (s.withCrcOf u) = mapNext (·.withCrcOf u) (storeWrite addr v s) := by
  simp only [storeWrite, mapNext_andThen, mapNext_ite]
  rfl

theorem pSnap_withCrcOf (len : Nat) (data : List Byte) (s u : State) :
    pSnap len data (s.withCrcOf u) = mapNext (·.withCrcOf u) (pSnap len data s) := by
  simp only [pSnap, mapNext_andThen]
  rfl

theorem pCopy_withCrcOf (l : WriteLatch) (s u : State) :
    pCopy l (s.withCrcOf u) = mapNext (·.withCrcOf u) (pCopy l s) := by
  simp only [pCopy, mapNext_andThen, mapNext_ite, storeWrite_withCrcOf, andThen_mapNext]
  rfl

theorem pCommit_withCrcOf (l : WriteLatch) (s u : State) :
    pCommit l (s.withCrcOf u) = mapNext (·.withCrcOf u) (pCommit l s) := by
  simp only [pCommit, mapNext_andThen, mapNext_ite]
  rfl

theorem advanceP_withCrcOf (s u : State) :
    advanceP (s.withCrcOf u) = mapNext (·.withCrcOf u) (advanceP s) := by
  have hport : (s.withCrcOf u).portP = s.portP := rfl
  unfold advanceP
  rw [hport]
  cases s.portP with
  | idle => rfl
  | copy l => simp only [mapNext_ite, pCopy_withCrcOf, pCommit_withCrcOf]

theorem cSnap_withCrcOf (maxLen : Nat) (s u : State) :
    cSnap maxLen (s.withCrcOf u) = mapNext (·.withCrcOf u) (cSnap maxLen s) := by
  simp only [cSnap, mapNext_andThen]
  rfl

theorem cCopy_withCrcOf (l : ReadLatch) (s u : State) :
    cCopy l (s.withCrcOf u) = mapNext (·.withCrcOf u) (cCopy l s) := by
  simp only [cCopy, mapNext_andThen, mapNext_ite]
  rfl

theorem cCommit_withCrcOf (l : ReadLatch) (s u : State) :
    cCommit l (s.withCrcOf u) = mapNext (·.withCrcOf u) (cCommit l s) := by
  simp only [cCommit, mapNext_andThen, mapNext_ite]
  rfl

theorem advanceC_withCrcOf (s u : State) :
    advanceC (s.withCrcOf u) = mapNext (·.withCrcOf u) (advanceC s) := by
  have hport : (s.withCrcOf u).portC = s.portC := rfl
  unfold advanceC
  rw [hport]
  cases s.portC with
  | idle => rfl
  | copy l => simp only [mapNext_ite, cCopy_withCrcOf, cCommit_withCrcOf]

theorem execRbInit_withCrcOf (storagePresent : Bool) (capacity : Nat) (s u : State) :
    execRbInit storagePresent capacity (s.withCrcOf u) =
      mapNext (·.withCrcOf u) (execRbInit storagePresent capacity s) := by
  simp only [execRbInit, mapNext_andThen, mapNext_ite]
  rfl

theorem requirePortIdle_withCrcOf (port : RbPort) (s u : State) :
    requirePortIdle port (s.withCrcOf u) = requirePortIdle port s := by
  cases port <;> rfl

theorem execRbFree_withCrcOf (port : RbPort) (s u : State) :
    execRbFree port (s.withCrcOf u) = mapNext (·.withCrcOf u) (execRbFree port s) := by
  simp only [execRbFree, mapNext_andThen, requirePortIdle_withCrcOf]
  rfl

theorem execRbUsed_withCrcOf (port : RbPort) (s u : State) :
    execRbUsed port (s.withCrcOf u) = mapNext (·.withCrcOf u) (execRbUsed port s) := by
  simp only [execRbUsed, mapNext_andThen, requirePortIdle_withCrcOf]
  rfl

/-- An operation of unit RB does the same whatever unit CRC holds. -/
theorem exec_withCrcOf {i : Instr} (hi : i.name.ofUnitCrc = false) (s u : State) :
    exec i (s.withCrcOf u) = mapNext (·.withCrcOf u) (exec i s) := by
  cases i with
  | rbInit storagePresent capacity => exact execRbInit_withCrcOf storagePresent capacity s u
  | rbWrite len data => exact pSnap_withCrcOf len data s u
  | rbRead maxLen => exact cSnap_withCrcOf maxLen s u
  | rbFree port => exact execRbFree_withCrcOf port s u
  | rbUsed port => exact execRbUsed_withCrcOf port s u
  | _ => cases hi

theorem takeEvent_withCrcOf {e : Event} (he : e.ofUnitRb = true) (s u : State) :
    takeEvent e (s.withCrcOf u) = mapNext (·.withCrcOf u) (takeEvent e s) := by
  cases e with
  | request port r =>
    have hport : port ≠ .v := of_decide_eq_true he
    refine issue_mapNext (f := (·.withCrcOf u)) rfl (fun _ => rfl) fun i hd => exec_withCrcOf ?_ s u
    rw [decode_ofUnitCrc hd, decide_eq_false hport]
  | advance a =>
    cases a with
    | p => exact advanceP_withCrcOf s u
    | c => exact advanceC_withCrcOf s u
  | reset => cases he

theorem step_withCrcOf {e : Event} {rest : List Event} {s : State} (hs : s.agenda = e :: rest)
    (he : e.ofUnitRb = true) (u : State) :
    step (s.withCrcOf u) = mapNext (·.withCrcOf u) (step s) := by
  have hu : (s.withCrcOf u).agenda = e :: rest := hs
  rw [step_of_agenda hs, step_of_agenda hu]
  exact takeEvent_withCrcOf he (s.withAgenda rest) u

/-! ## Unit CRC under any unit RB state -/

@[simp] theorem State.withRbOf_self (s : State) : s.withRbOf s = s := rfl

theorem execCrcUpd_withRbOf (b : Byte) (s u : State) :
    execCrcUpd b (s.withRbOf u) = mapNext (·.withRbOf u) (execCrcUpd b s) := by
  simp only [execCrcUpd, mapNext_andThen]
  rfl

theorem execCrcFin_withRbOf (s u : State) :
    execCrcFin (s.withRbOf u) = mapNext (·.withRbOf u) (execCrcFin s) := by
  simp only [execCrcFin, mapNext_andThen]
  rfl

theorem checkPacket_withRbOf (type : Byte) (n : Nat) (body : List Byte) (s u : State) :
    checkPacket type n body (s.withRbOf u) = mapNext (·.withRbOf u) (checkPacket type n body s) := by
  unfold checkPacket
  cases assemblePacket n (type :: body) <;> rfl

/-- An operation of unit CRC does the same whatever unit RB holds. A control byte reads and writes no register (R96). -/
theorem exec_withRbOf {i : Instr} (hi : i.name.ofUnitCrc = true) (s u : State) :
    exec i (s.withRbOf u) = mapNext (·.withRbOf u) (exec i s) := by
  cases i with
  | rbInit | rbWrite | rbRead | rbFree | rbUsed => cases hi
  | crcUpd b => exact execCrcUpd_withRbOf b s u
  | crcFin => exact execCrcFin_withRbOf s u
  | pktSoh body => exact checkPacket_withRbOf Config.soh Config.sohPayload body s u
  | pktStx body => exact checkPacket_withRbOf Config.stx Config.stxPayload body s u
  | crcClr | pktEot | pktAck | pktNak | pktCan | pktAbort1 | pktCrcReq | pktAbort2 => rfl

theorem takeEvent_withRbOf {e : Event} (he : e.ofUnitCrc = true) (s u : State) :
    takeEvent e (s.withRbOf u) = mapNext (·.withRbOf u) (takeEvent e s) := by
  cases e with
  | request port r =>
    refine issue_mapNext (f := (·.withRbOf u)) rfl (fun _ => rfl) fun i hd => exec_withRbOf ?_ s u
    rw [decode_ofUnitCrc hd]
    exact he
  | advance | reset => cases he

theorem step_withRbOf {e : Event} {rest : List Event} {s : State} (hs : s.agenda = e :: rest)
    (he : e.ofUnitCrc = true) (u : State) :
    step (s.withRbOf u) = mapNext (·.withRbOf u) (step s) := by
  have hu : (s.withRbOf u).agenda = e :: rest := hs
  rw [step_of_agenda hs, step_of_agenda hu]
  exact takeEvent_withRbOf he (s.withAgenda rest) u

/-- Settles O57: an event commutes with a change of the other unit's state, and a change to the state the other unit
already has shows that the event leaves it alone. -/
theorem unitsAreIndependent : Obligations.UnitsAreIndependent := by
  unfold Obligations.UnitsAreIndependent
  refine ⟨fun s u e rest hs he => ⟨step_withCrcOf hs he u, fun t ht => ?_⟩,
    fun s u e rest hs he => ⟨step_withRbOf hs he u, fun t ht => ?_⟩⟩
  · have hsame : t = t.withCrcOf s :=
      eq_of_step_mapNext (f := (·.withCrcOf s)) s.withCrcOf_self (step_withCrcOf hs he s) ht
    rw [hsame, State.withCrcOf_crcAcc]
  · exact eq_of_step_mapNext (f := (·.withRbOf s)) s.withRbOf_self (step_withRbOf hs he s) ht

end Sys2Proof.Machine
end

section
/-! SUPPORT. What one event does to the state, said once. `OpEffect` lists the next states an operation answers and
`EventEffect` those an event answers; `exec_effect` and `takeEvent_effect` show that there are no others. A proof about
every step is then one case per effect, and no proof after these unfolds `exec` or an agent's step. -/

namespace Sys2Proof

theorem ifWellFormed_wellFormed {idxW : Nat} {i j : Instr} (h : ifWellFormed idxW i = .ok j) :
    j.wellFormed idxW = true := by
  have hji := ifWellFormed_ok h
  subst hji
  unfold ifWellFormed at h
  split at h
  · assumption
  · cases h

theorem assembleRecord_wellFormed {idxW : Nat} {port : Port} {name : OpName} {operands : List Operand} {i : Instr}
    (h : assembleRecord idxW port name operands = .ok i) : i.wellFormed idxW = true := by
  cases name
  case rbFree | rbUsed =>
    obtain ⟨q, rfl⟩ := statusAt_ok h
    rfl
  case rbInit | rbWrite | rbRead =>
    simp only [assembleRecord] at h
    split at h
    · exact ifWellFormed_wellFormed h
    · cases h
  case crcUpd | pktSoh | pktStx =>
    simp only [assembleRecord] at h
    split at h <;> cases h
    rfl
  all_goals rw [noOperands_ok h]; rfl

/-- A record decodes only to an operation whose operands fit their fields (R51 to R60). -/
theorem decode_wellFormed {idxW : Nat} {port : Port} {r : Record} {i : Instr} (h : decode idxW port r = .ok i) :
    i.wellFormed idxW = true := by
  unfold decode at h
  split at h
  · exact assembleRecord_wellFormed h
  · cases h

end Sys2Proof

namespace Sys2Proof.Machine

/-- The operations that write `CRC_ACC` (R23). -/
def accWriters : List OpName := [.crcClr, .crcUpd, .crcFin, .pktSoh, .pktStx]

/-- The next states an operation issued in state `s` can answer. -/
inductive OpEffect (s : State) : Instr → State → Prop
  /-- A result record and nothing else: the status reads, a failed `RB.INIT` and the control bytes. -/
  | report {i : Instr} (port : Port) (r : Result) : OpEffect s i (s.deliver port r)
  /-- A successful `RB.INIT` (R64). -/
  | init {capacity : Nat} (hp : s.portP = .idle) (hc : s.portC = .idle) (hcap : 0 < capacity) :
      OpEffect s (.rbInit true capacity) ((s.initBuffer capacity).deliver .cfg (.status .ok))
  /-- The snapshot of a write (R66). -/
  | pSnap {len : Nat} {data : List Byte} {f : Nat} (hi : s.rbInited = true) (hp : s.portP = .idle)
      (hf : s.rbFree = some f) :
      OpEffect s (.rbWrite len data) (s.setPortP (.copy ⟨len, data, acceptCount len f, 0⟩))
  /-- The snapshot of a read (R70). -/
  | cSnap {maxLen cap f : Nat} (hi : s.rbInited = true) (hc : s.portC = .idle) (hcap : s.rbCap = some cap)
      (hf : s.rbFree = some f) (hle : f ≤ cap) :
      OpEffect s (.rbRead maxLen) (s.setPortC (.copy ⟨maxLen, deliverCount (cap - f) maxLen, 0, []⟩))
  /-- A new accumulator with no result record (R84, R85). -/
  | acc {i : Instr} (c : CrcWord) (hi : i.name ∈ accWriters) : OpEffect s i (s.setCrc c)
  /-- A new accumulator with a result record (R86, R94, R95). -/
  | accReport {i : Instr} (c : CrcWord) (r : Result) (hi : i.name ∈ accWriters) :
      OpEffect s i ((s.setCrc c).deliver .v r)

theorem controlByte_effect {i : Instr} {s t : State} (h : controlByte s = .next t) : OpEffect s i t := by
  cases h
  exact .report .v _

theorem checkPacket_effect {i : Instr} {type : Byte} {n : Nat} {body : List Byte} {s t : State}
    (hi : i.name ∈ accWriters) (h : checkPacket type n body s = .next t) : OpEffect s i t := by
  obtain ⟨f, -, rfl⟩ := checkPacket_next h
  exact .accReport _ _ hi

/-- An operation answers no other next states than its effects. -/
theorem exec_effect {i : Instr} {s t : State} (h : exec i s = .next t) : OpEffect s i t := by
  cases i with
  | rbInit storagePresent capacity =>
    obtain ⟨hp, hc, ⟨-, rfl⟩ | ⟨rfl, hcap, rfl⟩⟩ := execRbInit_next h
    · exact .report _ _
    · exact .init hp hc hcap
  | rbWrite len data =>
    obtain ⟨hi, hp, f, hf, rfl⟩ := pSnap_next h
    exact .pSnap hi hp hf
  | rbRead maxLen =>
    obtain ⟨hi, hc, cap, f, hcap, hf, hle, rfl⟩ := cSnap_next h
    exact .cSnap hi hc hcap hf hle
  | rbFree port =>
    obtain ⟨-, -, f, -, rfl⟩ := execRbFree_next h
    exact .report _ _
  | rbUsed port =>
    obtain ⟨-, -, cap, f, -, -, -, rfl⟩ := execRbUsed_next h
    exact .report _ _
  | crcClr =>
    cases h
    exact .acc _ (by decide)
  | crcUpd b =>
    obtain ⟨c, -, rfl⟩ := execCrcUpd_next h
    exact .acc _ (by simp [Instr.name, accWriters])
  | crcFin =>
    obtain ⟨c, -, rfl⟩ := execCrcFin_next h
    exact .accReport _ _ (by decide)
  | pktSoh body | pktStx body => exact checkPacket_effect (by simp [Instr.name, accWriters]) h
  | pktEot | pktAck | pktNak | pktCan | pktAbort1 | pktCrcReq | pktAbort2 => exact controlByte_effect h

/-- The next states an event taken in state `s` can answer. -/
inductive EventEffect (s : State) : Event → State → Prop
  /-- A refused request leaves its mark (R109). -/
  | refused (port : Port) (r : Record) (name : Refusal) : EventEffect s (.request port r) (s.mark port name)
  /-- A request runs the operation it decodes to. -/
  | op {port : Port} {r : Record} {i : Instr} {t : State} (hdecode : decode s.idxW port r = .ok i)
      (heffect : OpEffect s i t) : EventEffect s (.request port r) t
  /-- Agent P has nothing in flight. -/
  | pIdle (hp : s.portP = .idle) : EventEffect s (.advance .p) s
  /-- Agent C has nothing in flight. -/
  | cIdle (hc : s.portC = .idle) : EventEffect s (.advance .c) s
  /-- A copy step of a write (R67). -/
  | pCopy {l : WriteLatch} {cap wr : Nat} {b : Byte} (hp : s.portP = .copy l) (hlt : l.i < l.n)
      (hi : s.rbInited = true) (hcap : s.rbCap = some cap) (hwr : s.rbWr = some wr) (hb : l.data[l.i]? = some b)
      (hea : ea cap wr l.i < cap) :
      EventEffect s (.advance .p)
        ((s.setStore (s.store.write (ea cap wr l.i) b)).setPortP (.copy { l with i := l.i + 1 }))
  /-- The commit of a write (R68). -/
  | pCommit {l : WriteLatch} {cap wr free : Nat} (hp : s.portP = .copy l) (heq : l.i = l.n)
      (hcap : s.rbCap = some cap) (hwr : s.rbWr = some wr) (hfree : s.rbFree = some free)
      (hle : l.n ≤ free) :
      EventEffect s (.advance .p)
        (((s.bookWrite (advanceIndex cap wr l.n) (free - l.n)).setPortP .idle).deliver .p (.written l.n))
  /-- A copy step of a read (R71). -/
  | cCopy {l : ReadLatch} {cap rd : Nat} {b : Byte} (hc : s.portC = .copy l) (hlt : l.i < l.n)
      (hi : s.rbInited = true) (hcap : s.rbCap = some cap) (hrd : s.rbRd = some rd)
      (hea : ea cap rd l.i < cap) (hb : s.store.read (ea cap rd l.i) = some b) :
      EventEffect s (.advance .c) (s.setPortC (.copy { l with i := l.i + 1, data := l.data ++ [b] }))
  /-- The commit of a read (R72). -/
  | cCommit {l : ReadLatch} {cap rd free : Nat} (hc : s.portC = .copy l) (heq : l.i = l.n)
      (hcap : s.rbCap = some cap) (hrd : s.rbRd = some rd) (hfree : s.rbFree = some free)
      (hle : free + l.n ≤ cap) :
      EventEffect s (.advance .c)
        (((s.bookRead (advanceIndex cap rd l.n) (free + l.n)).setPortC .idle).deliver .c
          (.read l.n (l.data.take l.n)))
  /-- Reset (R114). -/
  | reset : EventEffect s .reset s.resetBlock

theorem advanceP_effect {s t : State} (h : advanceP s = .next t) : EventEffect s (.advance .p) t := by
  obtain ⟨hp, rfl⟩ | ⟨l, hp, ⟨hlt, hcopy⟩ | ⟨heq, hcommit⟩⟩ := advanceP_next h
  · exact .pIdle hp
  · obtain ⟨-, hi, cap, wr, b, hcap, hwr, hb, hea, rfl⟩ := pCopy_next hcopy
    exact .pCopy hp hlt hi hcap hwr hb hea
  · obtain ⟨-, cap, wr, free, hcap, hwr, hfree, hle, rfl⟩ := pCommit_next hcommit
    exact .pCommit hp heq hcap hwr hfree hle

theorem advanceC_effect {s t : State} (h : advanceC s = .next t) : EventEffect s (.advance .c) t := by
  obtain ⟨hc, rfl⟩ | ⟨l, hc, ⟨hlt, hcopy⟩ | ⟨heq, hcommit⟩⟩ := advanceC_next h
  · exact .cIdle hc
  · obtain ⟨-, hi, cap, rd, b, hcap, hrd, hea, hb, rfl⟩ := cCopy_next hcopy
    exact .cCopy hc hlt hi hcap hrd hea hb
  · obtain ⟨-, cap, rd, free, hcap, hrd, hfree, hle, rfl⟩ := cCommit_next hcommit
    exact .cCommit hc heq hcap hrd hfree hle

/-- An event answers no other next states than its effects. -/
theorem takeEvent_effect {e : Event} {s t : State} (h : takeEvent e s = .next t) : EventEffect s e t := by
  cases e with
  | request port r =>
    obtain ⟨i, hdecode, hexec⟩ | ⟨name, -, rfl⟩ := issue_next h
    · exact .op hdecode (exec_effect hexec)
    · exact .refused port r name
  | advance a =>
    cases a with
    | p => exact advanceP_effect h
    | c => exact advanceC_effect h
  | reset =>
    cases h
    exact .reset

theorem step_effect {e : Event} {rest : List Event} {s t : State} (hs : s.agenda = e :: rest)
    (h : step s = .next t) : EventEffect (s.withAgenda rest) e t :=
  takeEvent_effect (step_of_agenda hs ▸ h)

/-! ## The action of an event, effect by effect -/

theorem request_action {s : State} {port : Port} {r : Record} {i : Instr} (h : decode s.idxW port r = .ok i) :
    (Event.request port r).action s = .op i.name := by
  simp [Event.action, h]

theorem request_createsBuffer {s : State} {port : Port} {r : Record} {i : Instr}
    (h : decode s.idxW port r = .ok i) : (Event.request port r).createsBuffer s = initSucceeds i s := by
  simp [Event.createsBuffer, h]

theorem pCopy_action {s : State} {l : WriteLatch} (hp : s.portP = .copy l) (hlt : l.i < l.n) :
    (Event.advance .p).action s = .pCopy := by
  simp [Event.action, hp, hlt]

theorem pCommit_action {s : State} {l : WriteLatch} (hp : s.portP = .copy l) (heq : l.i = l.n) :
    (Event.advance .p).action s = .pCommit := by
  simp [Event.action, hp, heq]

theorem cCopy_action {s : State} {l : ReadLatch} (hc : s.portC = .copy l) (hlt : l.i < l.n) :
    (Event.advance .c).action s = .cCopy := by
  simp [Event.action, hc, hlt]

theorem cCommit_action {s : State} {l : ReadLatch} (hc : s.portC = .copy l) (heq : l.i = l.n) :
    (Event.advance .c).action s = .cCommit := by
  simp [Event.action, hc, heq]

/-- An event that creates the buffer is a request of `RB.INIT` (R14, R15). -/
theorem action_of_createsBuffer {e : Event} {s : State} (h : e.createsBuffer s = true) :
    e.action s = .op .rbInit := by
  cases e with
  | request port r =>
    cases hd : decode s.idxW port r with
    | ok i =>
      rw [request_createsBuffer hd] at h
      obtain ⟨capacity, rfl, -⟩ := initSucceeds_eq_true.1 h
      exact request_action hd
    | error x => simp [Event.createsBuffer, hd] at h
  | advance a => cases h
  | reset => cases h

/-- An event that keeps the buffer is no successful `RB.INIT`. -/
theorem initSucceeds_of_keepsBuffer {s : State} {port : Port} {r : Record} {i : Instr}
    (hdecode : decode s.idxW port r = .ok i) (h : (Event.request port r).keepsBuffer s = true) :
    initSucceeds i s = false := by
  rwa [request_keepsBuffer, request_createsBuffer hdecode, Bool.not_eq_true'] at h

end Sys2Proof.Machine
end

section
/-! SUPPORT. The regions of the ring (R31): from the read index on, the cells are those of the used region and then
those of the free region, and a copy of the whole capacity visits every cell once. -/

namespace Sys2Proof.Machine

/-! ## Copies -/

theorem ea_zero {cap base : Nat} (h : base < cap) : ea cap base 0 = base := Nat.mod_eq_of_lt h

/-- Advancing the index by `n` renumbers the bytes of a copy by `n`. -/
theorem ea_advanceIndex (cap base n k : Nat) : ea cap (advanceIndex cap base n) k = ea cap base (n + k) := by
  simp [ea, advanceIndex, Nat.add_assoc]

/-- A copy of `m + n` bytes is a copy of `m` bytes and then one of `n` bytes from the advanced index. -/
theorem copyCells_add (cap base m n : Nat) :
    copyCells cap base (m + n) = copyCells cap base m ++ copyCells cap (advanceIndex cap base m) n := by
  simp [copyCells, List.range_add, ea_advanceIndex]

theorem copyCells_nodup {cap base : Nat} (hb : base < cap) : (copyCells cap base cap).Nodup := by
  refine List.Nodup.map_on (fun j hj k hk h => ?_) List.nodup_range
  exact ea_inj hb (List.mem_range.1 hj) (List.mem_range.1 hk) h

/-- A copy of the whole capacity visits every cell of the store once. -/
theorem copyCells_perm_range {cap base : Nat} (hb : base < cap) :
    (copyCells cap base cap).Perm (List.range cap) := by
  have hsub : copyCells cap base cap ⊆ List.range cap := by
    intro a ha
    obtain ⟨k, -, rfl⟩ := mem_copyCells.1 ha
    exact List.mem_range.2 (ea_lt (by omega))
  exact (List.subperm_of_subset (copyCells_nodup hb) hsub).perm_of_length_le (by simp)

/-- The bytes in the cells of a copy, when those cells hold the first bytes of `data`. -/
theorem filterMap_copyCells_eq_take {cap base n : Nat} {m : Memory} {data : List Byte} (hn : n ≤ data.length)
    (h : ∀ k < n, m.read (ea cap base k) = data[k]?) :
    (copyCells cap base n).filterMap m.read = data.take n := by
  induction n with
  | zero => simp [copyCells]
  | succ n ih =>
    have hlast : m.read (ea cap base n) = some data[n] := by
      rw [h n (by omega), List.getElem?_eq_getElem]
    have hcells : copyCells cap base (n + 1) = copyCells cap base n ++ [ea cap base n] := by
      simp [copyCells, List.range_succ]
    rw [hcells, List.filterMap_append, ih (by omega) fun k hk => h k (by omega),
      List.take_succ_eq_append_getElem (by omega)]
    simp [hlast]

/-! ## The two regions -/

section Regions

variable {idxW : Nat} {r : RingRegs}

theorem RingRegs.sound.used_add_free (h : r.sound idxW) : r.used + r.free = r.cap := by
  obtain ⟨-, -, hfree, -, -, -⟩ := h
  simp only [RingRegs.used]
  omega

theorem RingRegs.sound.cap_pos (h : r.sound idxW) : 0 < r.cap := by
  obtain ⟨hpos, -⟩ := h
  exact hpos

theorem RingRegs.sound.rd_lt (h : r.sound idxW) : r.rd < r.cap := by
  obtain ⟨-, -, -, -, hrd, -⟩ := h
  exact hrd

/-- INV4 (R24): the write index is the read index advanced by `USED`. -/
theorem RingRegs.sound.advanceIndex_rd (h : r.sound idxW) : advanceIndex r.cap r.rd r.used = r.wr := by
  obtain ⟨-, -, -, -, -, hinv4⟩ := h
  exact hinv4

/-- The free region goes on where the used region ends. -/
theorem RingRegs.sound.ea_wr (h : r.sound idxW) (k : Nat) :
    ea r.cap r.wr k = ea r.cap r.rd (r.used + k) := by
  rw [← h.advanceIndex_rd, ea_advanceIndex]

theorem RingRegs.sound.regions_eq (h : r.sound idxW) :
    r.usedRegion ++ r.freeRegion = copyCells r.cap r.rd r.cap := by
  have hsplit := copyCells_add r.cap r.rd r.used r.free
  rw [h.used_add_free, h.advanceIndex_rd] at hsplit
  exact hsplit.symm

theorem RingRegs.sound.regions_perm (h : r.sound idxW) :
    (r.usedRegion ++ r.freeRegion).Perm (List.range r.cap) := by
  rw [h.regions_eq]
  exact copyCells_perm_range h.rd_lt

theorem RingRegs.sound.regions_disjoint (h : r.sound idxW) : List.Disjoint r.usedRegion r.freeRegion := by
  have hnodup : (r.usedRegion ++ r.freeRegion).Nodup := by
    rw [h.regions_eq]
    exact copyCells_nodup h.rd_lt
  exact List.disjoint_of_nodup_append hnodup

theorem ea_mem_usedRegion {k : Nat} (hk : k < r.used) : ea r.cap r.rd k ∈ r.usedRegion :=
  mem_copyCells.2 ⟨k, hk, rfl⟩

theorem ea_mem_freeRegion {k : Nat} (hk : k < r.free) : ea r.cap r.wr k ∈ r.freeRegion :=
  mem_copyCells.2 ⟨k, hk, rfl⟩

/-- A cell of the used region is no cell of the free region (R31). -/
theorem RingRegs.sound.used_ne_free (h : r.sound idxW) {j k : Nat} (hj : j < r.used) (hk : k < r.free) :
    ea r.cap r.rd j ≠ ea r.cap r.wr k := fun heq =>
  h.regions_disjoint (ea_mem_usedRegion hj) (heq ▸ ea_mem_freeRegion hk)

/-- Two bytes of a write never share a cell. -/
theorem RingRegs.sound.ea_wr_inj (h : r.sound idxW) {j k : Nat} (hj : j < r.free) (hk : k < r.free)
    (heq : ea r.cap r.wr j = ea r.cap r.wr k) : j = k := by
  obtain ⟨-, -, hfree, hwr, -, -⟩ := h
  exact ea_inj hwr (by omega) (by omega) heq

end Regions

/-- Settles O36: the write index is `ea(RB_RD, USED)`, and for `USED < RB_CAP` it is the cell `ea(RB_RD, 0)` of the
read index only if `USED = 0`. -/
theorem equalIndicesMeanEmptyOrFull : Obligations.EqualIndicesMeanEmptyOrFull := by
  unfold Obligations.EqualIndicesMeanEmptyOrFull
  intro idxW r h
  have hwr : ea r.cap r.rd r.used = r.wr := h.advanceIndex_rd
  have hrd := h.rd_lt
  have hsum := h.used_add_free
  simp only [isEmpty, isFull, decide_eq_true_eq]
  constructor
  · intro heq
    by_cases hfull : r.free = 0
    · exact .inr hfull
    · have hused : r.used = 0 :=
        ea_inj hrd (by omega) (by omega) (by rw [hwr, ea_zero hrd, heq])
      exact .inl (by omega)
  · rintro (hempty | hfull)
    · rw [← hwr, show r.used = 0 by omega, ea_zero hrd]
    · rw [← hwr, show r.used = r.cap by omega, ea, Nat.add_mod_right, Nat.mod_eq_of_lt hrd]

end Sys2Proof.Machine
end

section
/-! SUPPORT. Every step keeps the invariant: while a buffer exists, each effect takes the ring registers to registers
that are sound again, with the used region, the write and the read in flight sound over them. -/

namespace Sys2Proof.Machine

/-- The ring part of the invariant: the buffer exists with registers `r`, and they, the store and the operations in
flight are sound. -/
structure State.RingInv (s : State) (r : RingRegs) : Prop where
  hasRing : s.hasRing r
  sound : r.sound s.idxW
  store : storeSound r s.store
  write : writeSound s.idxW r s.store s.portP
  read : readSound s.idxW r s.store s.portC

theorem State.ringInv_iff {s : State} {r : RingRegs} :
    s.RingInv r ↔ s.hasRing r ∧ r.sound s.idxW ∧ storeSound r s.store ∧ writeSound s.idxW r s.store s.portP ∧
      readSound s.idxW r s.store s.portC :=
  ⟨fun h => ⟨h.hasRing, h.sound, h.store, h.write, h.read⟩,
    fun ⟨hregs, hsound, hstore, hwrite, hread⟩ => ⟨hregs, hsound, hstore, hwrite, hread⟩⟩

theorem State.inv_iff {s : State} :
    s.Inv ↔ s.store.wf = true ∧ 0 < s.idxW ∧ (s.noRing ∨ ∃ r, s.RingInv r) := by
  simp only [State.ringInv_iff, State.Inv]

theorem State.Inv.storeWf {s : State} (h : s.Inv) : s.store.wf = true := by
  obtain ⟨hwf, -, -⟩ := h
  exact hwf

theorem State.Inv.idxW_pos {s : State} (h : s.Inv) : 0 < s.idxW := by
  obtain ⟨-, hpos, -⟩ := h
  exact hpos

theorem State.RingInv.inv {s : State} {r : RingRegs} (h : s.RingInv r) (hwf : s.store.wf = true)
    (hpos : 0 < s.idxW) : s.Inv :=
  State.inv_iff.2 ⟨hwf, hpos, .inr ⟨r, h⟩⟩

/-- A state that shows a buffer, or an operation in flight, has sound ring registers. -/
theorem State.Inv.ring_of_inited {s : State} (h : s.Inv) (hi : s.rbInited = true) : ∃ r, s.RingInv r := by
  obtain ⟨-, -, ⟨hno, -⟩ | hring⟩ := State.inv_iff.1 h
  · rw [hi] at hno
    cases hno
  · exact hring

theorem State.Inv.ring_of_write {s : State} {l : WriteLatch} (h : s.Inv) (hp : s.portP = .copy l) :
    ∃ r, s.RingInv r := by
  obtain ⟨-, -, ⟨-, -, -, -, -, -, hidle, -⟩ | hring⟩ := State.inv_iff.1 h
  · rw [hp] at hidle
    cases hidle
  · exact hring

theorem State.Inv.ring_of_read {s : State} {l : ReadLatch} (h : s.Inv) (hc : s.portC = .copy l) :
    ∃ r, s.RingInv r := by
  obtain ⟨-, -, ⟨-, -, -, -, -, -, -, hidle⟩ | hring⟩ := State.inv_iff.1 h
  · rw [hc] at hidle
    cases hidle
  · exact hring

theorem State.hasRing.cap_eq {s : State} {r : RingRegs} (h : s.hasRing r) {cap : Nat} (hcap : s.rbCap = some cap) :
    cap = r.cap := by
  obtain ⟨-, hr, -, -, -⟩ := h
  exact Option.some.inj (hcap.symm.trans hr)

theorem State.hasRing.wr_eq {s : State} {r : RingRegs} (h : s.hasRing r) {wr : Nat} (hwr : s.rbWr = some wr) :
    wr = r.wr := by
  obtain ⟨-, -, hr, -, -⟩ := h
  exact Option.some.inj (hwr.symm.trans hr)

theorem State.hasRing.rd_eq {s : State} {r : RingRegs} (h : s.hasRing r) {rd : Nat} (hrd : s.rbRd = some rd) :
    rd = r.rd := by
  obtain ⟨-, -, -, hr, -⟩ := h
  exact Option.some.inj (hrd.symm.trans hr)

theorem State.hasRing.free_eq {s : State} {r : RingRegs} (h : s.hasRing r) {free : Nat}
    (hfree : s.rbFree = some free) : free = r.free := by
  obtain ⟨-, -, -, -, hr⟩ := h
  exact Option.some.inj (hfree.symm.trans hr)

/-- A state with a buffer has one set of registers. -/
theorem State.hasRing.unique {s : State} {r q : RingRegs} (h : s.hasRing r) (hq : s.hasRing q) : q = r := by
  obtain ⟨-, hcap, hwr, hrd, hfree⟩ := hq
  cases q
  cases r
  exact (RingRegs.mk.injEq ..).mpr ⟨h.cap_eq hcap, h.wr_eq hwr, h.rd_eq hrd, h.free_eq hfree⟩

/-- INV5 (R25) with the value facts of a write in flight. -/
theorem State.RingInv.write_copy {s : State} {r : RingRegs} (h : s.RingInv r) {l : WriteLatch}
    (hp : s.portP = .copy l) : writeSound s.idxW r s.store (.copy l) :=
  hp ▸ h.write

/-- INV6 (R25) with the value facts of a read in flight. -/
theorem State.RingInv.read_copy {s : State} {r : RingRegs} (h : s.RingInv r) {l : ReadLatch}
    (hc : s.portC = .copy l) : readSound s.idxW r s.store (.copy l) :=
  hc ▸ h.read

/-! ## Parts of the invariant that two states share -/

/-- Accumulator, schedule, results and marks are no part of the invariant. -/
theorem State.inv_withAgenda {s : State} {rest : List Event} : (s.withAgenda rest).Inv ↔ s.Inv := Iff.rfl

theorem State.inv_mark {s : State} {port : Port} {n : Refusal} : (s.mark port n).Inv ↔ s.Inv := Iff.rfl

theorem State.inv_deliver {s : State} {port : Port} {x : Result} : (s.deliver port x).Inv ↔ s.Inv := Iff.rfl

theorem State.inv_setCrc {s : State} {c : CrcWord} : (s.setCrc c).Inv ↔ s.Inv := Iff.rfl

/-! ## The ring through each effect -/

/-- The registers of a new buffer (R64). -/
def RingRegs.empty (capacity : Nat) : RingRegs := ⟨capacity, 0, 0, capacity⟩

/-- The registers after the commit of a write of `n` bytes (R68). -/
def RingRegs.afterWrite (r : RingRegs) (n : Nat) : RingRegs :=
  { r with wr := advanceIndex r.cap r.wr n, free := r.free - n }

/-- The registers after the commit of a read of `n` bytes (R72). -/
def RingRegs.afterRead (r : RingRegs) (n : Nat) : RingRegs :=
  { r with rd := advanceIndex r.cap r.rd n, free := r.free + n }

@[simp] theorem RingRegs.empty_used (capacity : Nat) : (RingRegs.empty capacity).used = 0 := Nat.sub_self capacity

theorem RingRegs.sound.afterWrite_used {idxW : Nat} {r : RingRegs} (h : r.sound idxW) {n : Nat} (hn : n ≤ r.free) :
    (r.afterWrite n).used = r.used + n := by
  have hsum := h.used_add_free
  simp only [RingRegs.used, RingRegs.afterWrite] at hsum ⊢
  omega

theorem RingRegs.afterRead_used (r : RingRegs) (n : Nat) : (r.afterRead n).used = r.used - n := by
  simp only [RingRegs.used, RingRegs.afterRead]
  omega

theorem RingRegs.sound.afterWrite {idxW : Nat} {r : RingRegs} (h : r.sound idxW) {n : Nat} (hn : n ≤ r.free) :
    (r.afterWrite n).sound idxW := by
  have hinv4 : advanceIndex r.cap r.rd (r.used + n) = advanceIndex r.cap r.wr n := (h.ea_wr n).symm
  have hused := h.afterWrite_used hn
  obtain ⟨hpos, hcap, hfree, -, hrd, -⟩ := h
  refine ⟨hpos, hcap, (Nat.sub_le r.free n).trans hfree, Nat.mod_lt _ hpos, hrd, ?_⟩
  rw [hused]
  exact hinv4

theorem RingRegs.sound.afterRead {idxW : Nat} {r : RingRegs} (h : r.sound idxW) {n : Nat} (hn : n ≤ r.used) :
    (r.afterRead n).sound idxW := by
  have hsum := h.used_add_free
  have hinv4 : ea r.cap (advanceIndex r.cap r.rd n) (r.used - n) = r.wr := by
    rw [ea_advanceIndex, Nat.add_sub_cancel' hn]
    exact h.advanceIndex_rd
  obtain ⟨hpos, hcap, -, hwr, -, -⟩ := h
  refine ⟨hpos, hcap, ?_, hwr, Nat.mod_lt _ hpos, ?_⟩
  · simp only [RingRegs.afterRead]
    omega
  · rw [r.afterRead_used n]
    exact hinv4

section Ring

variable {s : State} {r : RingRegs}

theorem ringInv_initBuffer {capacity : Nat} (hp : s.portP = .idle) (hc : s.portC = .idle) (hpos : 0 < capacity)
    (hfits : capacity < 2 ^ s.idxW) : (s.initBuffer capacity).RingInv (.empty capacity) where
  hasRing := ⟨rfl, rfl, rfl, rfl, rfl⟩
  sound := ⟨hpos, hfits, le_rfl, hpos, hpos, by rw [RingRegs.empty_used]; exact Nat.zero_mod capacity⟩
  store := by simp [storeSound]
  write := by simp [hp, writeSound]
  read := by simp [hc, readSound]

/-- A write's snapshot (R66). -/
theorem State.RingInv.pSnap (h : s.RingInv r) {len : Nat} {data : List Byte} (hlen : len < 2 ^ s.idxW)
    (hdata : data.length = len) :
    (s.setPortP (.copy ⟨len, data, acceptCount len r.free, 0⟩)).RingInv r where
  hasRing := h.hasRing
  sound := h.sound
  store := h.store
  write := ⟨Nat.zero_le _, Nat.min_le_right _ _, Nat.min_le_left _ _, hlen, hdata, by simp⟩
  read := h.read

/-- A read's snapshot (R70). -/
theorem State.RingInv.cSnap (h : s.RingInv r) {maxLen : Nat} (hmax : maxLen < 2 ^ s.idxW) :
    (s.setPortC (.copy ⟨maxLen, deliverCount r.used maxLen, 0, []⟩)).RingInv r where
  hasRing := h.hasRing
  sound := h.sound
  store := h.store
  write := h.write
  read := ⟨Nat.zero_le _, Nat.min_le_left _ _, Nat.min_le_right _ _, hmax, rfl, by simp⟩

/-- The cell a write copies to is no cell of the used region. -/
theorem State.RingInv.read_used_write (h : s.RingInv r) {j k : Nat} (hj : j < r.used) (hk : k < r.free) (b : Byte) :
    (s.store.write (ea r.cap r.wr k) b).read (ea r.cap r.rd j) = s.store.read (ea r.cap r.rd j) :=
  Memory.read_write_other _ b (h.sound.used_ne_free hj hk)

/-- A write's copy step (R67) fills a cell of the free region, so the used region and a read in flight keep their
bytes. -/
theorem State.RingInv.pCopy (h : s.RingInv r) {l : WriteLatch} {b : Byte} (hp : s.portP = .copy l) (hlt : l.i < l.n)
    (hb : l.data[l.i]? = some b) :
    ((s.setStore (s.store.write (ea r.cap r.wr l.i) b)).setPortP (.copy { l with i := l.i + 1 })).RingInv r := by
  obtain ⟨-, hn, hnlen, hlen, hdata, hcopied⟩ := h.write_copy hp
  obtain ⟨hused, hcells⟩ := h.store
  have hfree : l.i < r.free := by omega
  refine ⟨h.hasRing, h.sound, ⟨fun k hk => ?_, fun a ha => ?_⟩,
    ⟨hlt, hn, hnlen, hlen, hdata, fun k hk => ?_⟩, ?_⟩
  · exact (congrArg Option.isSome (h.read_used_write hk hfree b)).trans (hused k hk)
  · by_cases hcell : a = ea r.cap r.wr l.i
    · rw [hcell]
      exact ea_lt h.sound.cap_pos
    · exact hcells a (Memory.read_write_other s.store b hcell ▸ ha)
  · show (s.store.write _ b).read _ = l.data[k]?
    obtain hki | rfl : k < l.i ∨ k = l.i := Nat.lt_succ_iff_lt_or_eq.1 hk
    · rw [Memory.read_write_other _ b fun heq => hki.ne (h.sound.ea_wr_inj (by omega) hfree heq)]
      exact hcopied k hki
    · rw [Memory.read_write_same, hb]
  · show readSound s.idxW r (s.store.write _ b) s.portC
    cases hc : s.portC with
    | idle => trivial
    | copy lc =>
      obtain ⟨hic, hnc, hrest, hmax, hlc, hread⟩ := h.read_copy hc
      exact ⟨hic, hnc, hrest, hmax, hlc, fun k hk => (h.read_used_write (by omega) hfree b).trans (hread k hk)⟩

/-- A write's commit (R68): the cells it has copied to become the end of the used region. -/
theorem State.RingInv.pCommit (h : s.RingInv r) {l : WriteLatch} (hp : s.portP = .copy l) (heq : l.i = l.n) :
    ((s.bookWrite (advanceIndex r.cap r.wr l.n) (r.free - l.n)).setPortP .idle).RingInv (r.afterWrite l.n) := by
  obtain ⟨-, hn, hnlen, -, hdata, hcopied⟩ := h.write_copy hp
  obtain ⟨hi, hcap, -, hrd, -⟩ := h.hasRing
  obtain ⟨hused, hcells⟩ := h.store
  have hused' := h.sound.afterWrite_used hn
  refine ⟨⟨hi, hcap, rfl, hrd, rfl⟩, h.sound.afterWrite hn, ⟨fun k hk => ?_, hcells⟩, trivial, ?_⟩
  · show (s.store.read (ea r.cap r.rd k)).isSome = true
    by_cases hold : k < r.used
    · exact hused k hold
    · obtain ⟨j, rfl⟩ := Nat.exists_eq_add_of_le (Nat.le_of_not_lt hold)
      rw [← h.sound.ea_wr, hcopied j (by omega), List.getElem?_eq_getElem (by omega), Option.isSome_some]
  · show readSound s.idxW (r.afterWrite l.n) s.store s.portC
    cases hc : s.portC with
    | idle => trivial
    | copy lc =>
      obtain ⟨hic, hnc, hrest⟩ := h.read_copy hc
      exact ⟨hic, by omega, hrest⟩

/-- A read's copy step (R71). -/
theorem State.RingInv.cCopy (h : s.RingInv r) {l : ReadLatch} {b : Byte} (hc : s.portC = .copy l) (hlt : l.i < l.n)
    (hb : s.store.read (ea r.cap r.rd l.i) = some b) :
    (s.setPortC (.copy { l with i := l.i + 1, data := l.data ++ [b] })).RingInv r := by
  obtain ⟨-, hn, hnmax, hmax, hdata, hcopied⟩ := h.read_copy hc
  refine ⟨h.hasRing, h.sound, h.store, h.write, ⟨hlt, hn, hnmax, hmax, by simp [hdata], fun k hk => ?_⟩⟩
  show s.store.read _ = (l.data ++ [b])[k]?
  obtain hki | rfl : k < l.i ∨ k = l.i := Nat.lt_succ_iff_lt_or_eq.1 hk
  · rw [hcopied k hki, List.getElem?_append_left (by omega)]
  · rw [hb, ← hdata, List.getElem?_concat_length]

/-- A read's commit (R72): the cells it has copied from leave the front of the used region. -/
theorem State.RingInv.cCommit (h : s.RingInv r) {l : ReadLatch} (hc : s.portC = .copy l) :
    ((s.bookRead (advanceIndex r.cap r.rd l.n) (r.free + l.n)).setPortC .idle).RingInv (r.afterRead l.n) := by
  obtain ⟨-, hn, -⟩ := h.read_copy hc
  obtain ⟨hi, hcap, hwr, -, -⟩ := h.hasRing
  obtain ⟨hused, hcells⟩ := h.store
  refine ⟨⟨hi, hcap, hwr, rfl, rfl⟩, h.sound.afterRead hn, ⟨fun k hk => ?_, hcells⟩, ?_, trivial⟩
  · show (s.store.read (ea r.cap (advanceIndex r.cap r.rd l.n) k)).isSome = true
    rw [r.afterRead_used] at hk
    rw [ea_advanceIndex]
    exact hused _ (by omega)
  · show writeSound s.idxW (r.afterRead l.n) s.store s.portP
    cases hp : s.portP with
    | idle => trivial
    | copy lp =>
      obtain ⟨hip, hnp, hrest⟩ := h.write_copy hp
      exact ⟨hip, hnp.trans (Nat.le_add_right _ _), hrest⟩

end Ring

/-! ## Every step -/

/-- Reset leaves no buffer (R30, R114). -/
theorem State.inv_resetBlock {s : State} (hpos : 0 < s.idxW) : s.resetBlock.Inv :=
  State.inv_iff.2 ⟨rfl, hpos, .inl ⟨rfl, rfl, rfl, rfl, rfl, rfl, rfl, rfl⟩⟩

theorem OpEffect.inv {s t : State} {i : Instr} (h : OpEffect s i t) (hs : s.Inv)
    (hwf : i.wellFormed s.idxW = true) : t.Inv := by
  cases h with
  | report port x => exact State.inv_deliver.2 hs
  | init hp hc hcap =>
    exact State.inv_deliver.2 ((ringInv_initBuffer hp hc hcap (of_decide_eq_true hwf)).inv rfl hs.idxW_pos)
  | pSnap hi hp hf =>
    obtain ⟨r, hr⟩ := hs.ring_of_inited hi
    obtain rfl := hr.hasRing.free_eq hf
    simp only [Instr.wellFormed, fitsIndex, Bool.and_eq_true, decide_eq_true_eq] at hwf
    obtain ⟨hlen, hdata⟩ := hwf
    exact (hr.pSnap hlen hdata).inv hs.storeWf hs.idxW_pos
  | cSnap hi hc hcap hf hle =>
    obtain ⟨r, hr⟩ := hs.ring_of_inited hi
    obtain rfl := hr.hasRing.free_eq hf
    obtain rfl := hr.hasRing.cap_eq hcap
    exact (hr.cSnap (of_decide_eq_true hwf)).inv hs.storeWf hs.idxW_pos
  | acc c hi => exact State.inv_setCrc.2 hs
  | accReport c x hi => exact State.inv_deliver.2 (State.inv_setCrc.2 hs)

theorem EventEffect.inv {s t : State} {e : Event} (h : EventEffect s e t) (hs : s.Inv) : t.Inv := by
  cases h with
  | refused port r name => exact State.inv_mark.2 hs
  | op hdecode heffect => exact heffect.inv hs (decode_wellFormed hdecode)
  | pIdle hp => exact hs
  | cIdle hc => exact hs
  | pCopy hp hlt hi hcap hwr hb hea =>
    obtain ⟨r, hr⟩ := hs.ring_of_write hp
    obtain rfl := hr.hasRing.cap_eq hcap
    obtain rfl := hr.hasRing.wr_eq hwr
    exact (hr.pCopy hp hlt hb).inv (Memory.write_wf hs.storeWf _ _) hs.idxW_pos
  | pCommit hp heq hcap hwr hfree hle =>
    obtain ⟨r, hr⟩ := hs.ring_of_write hp
    obtain rfl := hr.hasRing.cap_eq hcap
    obtain rfl := hr.hasRing.wr_eq hwr
    obtain rfl := hr.hasRing.free_eq hfree
    exact State.inv_deliver.2 ((hr.pCommit hp heq).inv hs.storeWf hs.idxW_pos)
  | cCopy hc hlt hi hcap hrd hea hb =>
    obtain ⟨r, hr⟩ := hs.ring_of_read hc
    obtain rfl := hr.hasRing.cap_eq hcap
    obtain rfl := hr.hasRing.rd_eq hrd
    exact (hr.cCopy hc hlt hb).inv hs.storeWf hs.idxW_pos
  | cCommit hc heq hcap hrd hfree hle =>
    obtain ⟨r, hr⟩ := hs.ring_of_read hc
    obtain rfl := hr.hasRing.cap_eq hcap
    obtain rfl := hr.hasRing.rd_eq hrd
    obtain rfl := hr.hasRing.free_eq hfree
    exact State.inv_deliver.2 ((hr.cCommit hc).inv hs.storeWf hs.idxW_pos)
  | reset => exact State.inv_resetBlock hs.idxW_pos

theorem State.Inv.step {s t : State} (hs : s.Inv) (h : Machine.step s = .next t) : t.Inv := by
  obtain ⟨-, rfl⟩ | ⟨e, rest, -, htake⟩ := step_next h
  · exact hs
  · exact (takeEvent_effect htake).inv (State.inv_withAgenda.2 hs)

/-- Settles O12: the empty schedule changes nothing, and every effect of an event keeps the invariant. -/
theorem stepKeepsInvariant : Obligations.StepKeepsInvariant := by
  unfold Obligations.StepKeepsInvariant
  exact fun s t hs h => hs.step h

/-- Settles O11: the reset state is its own reset. -/
theorem resetMeetsInvariant : Obligations.ResetMeetsInvariant := by
  unfold Obligations.ResetMeetsInvariant
  exact State.inv_resetBlock (s := State.reset) (by decide)

end Sys2Proof.Machine
end

section
/-! SUPPORT. The writers of each piece of state (R13): an effect that is none of the listed writers leaves the piece as
it is. -/

namespace Sys2Proof.Machine

/-- The two states have the same buffer: registers and store. -/
structure SameBuffer (s t : State) : Prop where
  rbInited : t.rbInited = s.rbInited
  rbCap : t.rbCap = s.rbCap
  rbWr : t.rbWr = s.rbWr
  rbRd : t.rbRd = s.rbRd
  rbFree : t.rbFree = s.rbFree
  store : t.store = s.store

section Op

variable {s t : State} {i : Instr} (h : OpEffect s i t)

include h

/-- No operation but a successful `RB.INIT` touches the buffer: a write or a read in flight does so in its agent's
steps. -/
theorem OpEffect.sameBuffer (hi : initSucceeds i s = false) : SameBuffer s t := by
  cases h with
  | init hp hc hcap =>
    have hsucceeds := initSucceeds_eq_true.2
      ⟨_, rfl, hcap.ne', State.busyP_eq_false.2 hp, State.busyC_eq_false.2 hc⟩
    rw [hi] at hsucceeds
    cases hsucceeds
  | _ => constructor <;> rfl

theorem OpEffect.portP_eq (hi : i.name ≠ .rbWrite) : t.portP = s.portP := by
  cases h with
  | pSnap => exact absurd rfl hi
  | _ => rfl

theorem OpEffect.portC_eq (hi : i.name ≠ .rbRead) : t.portC = s.portC := by
  cases h with
  | cSnap => exact absurd rfl hi
  | _ => rfl

theorem OpEffect.crcAcc_eq (hi : i.name ∉ accWriters) : t.crcAcc = s.crcAcc := by
  cases h with
  | acc c hacc | accReport c x hacc => exact absurd hacc hi
  | _ => rfl

theorem OpEffect.idxW_eq : t.idxW = s.idxW := by
  cases h <;> rfl

end Op

section Event

variable {s t : State} {e : Event} (h : EventEffect s e t)

include h

theorem EventEffect.rbInited_rbCap_eq (hk : e.keepsBuffer s = true) :
    t.rbInited = s.rbInited ∧ t.rbCap = s.rbCap := by
  cases h with
  | op hdecode ho =>
    have hsame := ho.sameBuffer (initSucceeds_of_keepsBuffer hdecode hk)
    exact ⟨hsame.rbInited, hsame.rbCap⟩
  | reset => cases hk
  | _ => exact ⟨rfl, rfl⟩

theorem EventEffect.rbWr_eq (hk : e.keepsBuffer s = true) (ha : e.action s ≠ .pCommit) : t.rbWr = s.rbWr := by
  cases h with
  | op hdecode ho => exact (ho.sameBuffer (initSucceeds_of_keepsBuffer hdecode hk)).rbWr
  | pCommit hp heq => exact absurd (pCommit_action hp heq) ha
  | reset => cases hk
  | _ => rfl

theorem EventEffect.rbRd_eq (hk : e.keepsBuffer s = true) (ha : e.action s ≠ .cCommit) : t.rbRd = s.rbRd := by
  cases h with
  | op hdecode ho => exact (ho.sameBuffer (initSucceeds_of_keepsBuffer hdecode hk)).rbRd
  | cCommit hc heq => exact absurd (cCommit_action hc heq) ha
  | reset => cases hk
  | _ => rfl

theorem EventEffect.rbFree_eq (hk : e.keepsBuffer s = true) (ha : e.action s ∉ [Action.pCommit, .cCommit]) :
    t.rbFree = s.rbFree := by
  cases h with
  | op hdecode ho => exact (ho.sameBuffer (initSucceeds_of_keepsBuffer hdecode hk)).rbFree
  | pCommit hp heq => simp [pCommit_action hp heq] at ha
  | cCommit hc heq => simp [cCommit_action hc heq] at ha
  | reset => cases hk
  | _ => rfl

theorem EventEffect.store_eq (hk : e.keepsBuffer s = true) (ha : e.action s ≠ .pCopy) : t.store = s.store := by
  cases h with
  | op hdecode ho => exact (ho.sameBuffer (initSucceeds_of_keepsBuffer hdecode hk)).store
  | pCopy hp hlt => exact absurd (pCopy_action hp hlt) ha
  | reset => cases hk
  | _ => rfl

theorem EventEffect.portP_eq (ha : e.action s ∉ [Action.op .rbWrite, .pCopy, .pCommit, .reset]) :
    t.portP = s.portP := by
  cases h with
  | op hdecode ho => exact ho.portP_eq fun hi => ha (by simp [request_action hdecode, hi])
  | pCopy hp hlt => simp [pCopy_action hp hlt] at ha
  | pCommit hp heq => simp [pCommit_action hp heq] at ha
  | reset => simp [Event.action] at ha
  | _ => rfl

theorem EventEffect.portC_eq (ha : e.action s ∉ [Action.op .rbRead, .cCopy, .cCommit, .reset]) :
    t.portC = s.portC := by
  cases h with
  | op hdecode ho => exact ho.portC_eq fun hi => ha (by simp [request_action hdecode, hi])
  | cCopy hc hlt => simp [cCopy_action hc hlt] at ha
  | cCommit hc heq => simp [cCommit_action hc heq] at ha
  | reset => simp [Event.action] at ha
  | _ => rfl

theorem EventEffect.crcAcc_eq (ha : e.action s ∉ accWriters.map Action.op ++ [.reset]) : t.crcAcc = s.crcAcc := by
  cases h with
  | op hdecode ho => exact ho.crcAcc_eq fun hi => ha (by simp [request_action hdecode, hi])
  | reset => simp [Event.action] at ha
  | _ => rfl

theorem EventEffect.idxW_eq : t.idxW = s.idxW := by
  cases h with
  | op hdecode ho => exact ho.idxW_eq
  | _ => rfl

end Event

/-- Settles O16: each piece of state has its lemma above, which says that it stays when no listed writer acts. -/
theorem onlyListedWritersChangeState : Obligations.OnlyListedWritersChangeState := by
  unfold Obligations.OnlyListedWritersChangeState
  intro s t e rest hs hstep
  have h := step_effect hs hstep
  refine ⟨action_of_createsBuffer, fun hk => ?_, not_imp_comm.1 h.portP_eq, not_imp_comm.1 h.portC_eq,
    not_imp_comm.1 h.crcAcc_eq, h.idxW_eq⟩
  obtain ⟨hinited, hcap⟩ := h.rbInited_rbCap_eq hk
  exact ⟨hinited, hcap, not_imp_comm.1 (h.rbWr_eq hk), not_imp_comm.1 (h.rbRd_eq hk),
    not_imp_comm.1 (h.rbFree_eq hk), not_imp_comm.1 (h.store_eq hk)⟩

/-- Settles O54: each operation's inversion lemma writes its next state out. -/
theorem rbInstructionsFrame : Obligations.RbInstructionsFrame := by
  unfold Obligations.RbInstructionsFrame
  refine ⟨fun s t len data h => ?_, fun s t maxLen h => ?_, fun s t q h => ?_, fun s t sp capacity h => ?_⟩
  · obtain ⟨-, -, f, -, rfl⟩ := pSnap_next h
    exact ⟨rfl, fun a => rfl⟩
  · obtain ⟨-, -, cap, f, -, -, -, rfl⟩ := cSnap_next h
    exact ⟨rfl, fun a => rfl⟩
  · obtain h | h := h
    · obtain ⟨-, -, f, -, rfl⟩ := execRbFree_next h
      exact ⟨rfl, fun a => rfl⟩
    · obtain ⟨-, -, cap, f, -, -, -, rfl⟩ := execRbUsed_next h
      exact ⟨rfl, fun a => rfl⟩
  · obtain ⟨-, -, ⟨-, rfl⟩ | ⟨rfl, hcap, rfl⟩⟩ := execRbInit_next h
    · exact ⟨rfl, rfl, rfl, rfl, rfl, rfl, fun _ => ⟨rfl, fun a => rfl⟩⟩
    · refine ⟨rfl, rfl, rfl, rfl, rfl, rfl, fun hfail => ?_⟩
      obtain hsp | hzero := hfail
      · cases hsp
      · exact absurd hzero hcap.ne'

end Sys2Proof.Machine
end

section
/-! SUPPORT. What the invariant says of the counts, the regions and the queue view. -/

namespace Sys2Proof.Machine

/-! ## Counts -/

theorem State.RingInv.free_le_cap {s : State} {r : RingRegs} (h : s.RingInv r) : r.free ≤ r.cap := by
  have hsum := h.sound.used_add_free
  omega

/-- Settles O14: INV1 and INV2 of the ring registers of the next state. -/
theorem countInvariantAfterEveryStep : Obligations.CountInvariantAfterEveryStep := by
  unfold Obligations.CountInvariantAfterEveryStep
  intro s t hs hstep hi
  obtain ⟨r, hr⟩ := (hs.step hstep).ring_of_inited hi
  obtain ⟨-, hcap, -, -, hfree⟩ := hr.hasRing
  exact ⟨r.cap, r.free, hcap, hfree, hr.free_le_cap, Nat.sub_add_cancel hr.free_le_cap⟩

/-- The ring registers that hold a value are at most the capacity, which fits its width (R15). -/
theorem State.Inv.regs_fit {s : State} (h : s.Inv) {v : Nat}
    (hv : s.rbCap = some v ∨ s.rbWr = some v ∨ s.rbRd = some v ∨ s.rbFree = some v) : v < 2 ^ s.idxW := by
  obtain ⟨-, -, ⟨-, hcap, hwr, hrd, hfree, -⟩ | ⟨r, hr⟩⟩ := State.inv_iff.1 h
  · simp [hcap, hwr, hrd, hfree] at hv
  · obtain ⟨-, hfits, hfreele, hwrlt, hrdlt, -⟩ := hr.sound
    obtain hv | hv | hv | hv := hv
    · exact hr.hasRing.cap_eq hv ▸ hfits
    · exact hr.hasRing.wr_eq hv ▸ hwrlt.trans hfits
    · exact hr.hasRing.rd_eq hv ▸ hrdlt.trans hfits
    · exact hr.hasRing.free_eq hv ▸ hfreele.trans_lt hfits

/-- The latches of a write are at most its operand `len`, which fits its width (INV5). -/
theorem State.Inv.writeLatch_fits {s : State} (h : s.Inv) {l : WriteLatch} (hp : s.portP = .copy l) :
    l.len < 2 ^ s.idxW ∧ l.n < 2 ^ s.idxW ∧ l.i < 2 ^ s.idxW := by
  obtain ⟨r, hr⟩ := h.ring_of_write hp
  obtain ⟨hin, -, hnlen, hlen, -⟩ := hr.write_copy hp
  exact ⟨hlen, hnlen.trans_lt hlen, (hin.trans hnlen).trans_lt hlen⟩

/-- The latches of a read are at most its operand `max_len`, which fits its width (INV6). -/
theorem State.Inv.readLatch_fits {s : State} (h : s.Inv) {l : ReadLatch} (hc : s.portC = .copy l) :
    l.maxLen < 2 ^ s.idxW ∧ l.n < 2 ^ s.idxW ∧ l.i < 2 ^ s.idxW := by
  obtain ⟨r, hr⟩ := h.ring_of_read hc
  obtain ⟨hin, -, hnmax, hmax, -⟩ := hr.read_copy hc
  exact ⟨hmax, hnmax.trans_lt hmax, (hin.trans hnmax).trans_lt hmax⟩

/-- Settles O15: the next state meets the invariant, which bounds its registers and latches. -/
theorem everyCountFitsItsWidth : Obligations.EveryCountFitsItsWidth := by
  unfold Obligations.EveryCountFitsItsWidth
  intro s t hs hstep
  have ht := hs.step hstep
  exact ⟨fun v => ht.regs_fit, fun l => ht.writeLatch_fits, fun l => ht.readLatch_fits⟩

/-! ## Regions -/

theorem State.Inv.ringInv {s : State} {r : RingRegs} (h : s.Inv) (hr : s.hasRing r) : s.RingInv r := by
  have ⟨hi, _⟩ := hr
  obtain ⟨q, hq⟩ := h.ring_of_inited hi
  exact hr.unique hq.hasRing ▸ hq

theorem State.RingInv.usedRegion_holds {s : State} {r : RingRegs} (h : s.RingInv r) :
    ∀ a ∈ r.usedRegion, (s.store.read a).isSome = true := by
  obtain ⟨hused, -⟩ := h.store
  intro a ha
  obtain ⟨k, hk, rfl⟩ := mem_copyCells.1 ha
  exact hused k hk

/-- Settles O35: the two regions in a row are a copy of the whole capacity, and INV5 and INV6 keep each agent's copies
inside its own region. -/
theorem regionsSeparateTheAgents : Obligations.RegionsSeparateTheAgents := by
  unfold Obligations.RegionsSeparateTheAgents
  intro s r hs hring
  have hr := hs.ringInv hring
  have hdisjoint := hr.sound.regions_disjoint
  refine ⟨hr.sound.regions_perm, hr.usedRegion_holds, fun l hp k hk => ?_, fun l hc k hk => ?_⟩
  · obtain ⟨-, hn, -⟩ := hr.write_copy hp
    have hfree := ea_mem_freeRegion (hk.trans_le hn)
    exact ⟨hfree, fun hused => hdisjoint hused hfree⟩
  · obtain ⟨-, hn, -⟩ := hr.read_copy hc
    have hused := ea_mem_usedRegion (hk.trans_le hn)
    exact ⟨hused, hdisjoint hused⟩

/-! ## The queue view -/

theorem State.hasRing.queue_eq {s : State} {r : RingRegs} (h : s.hasRing r) :
    s.queue = r.usedRegion.filterMap s.store.read := by
  obtain ⟨-, hcap, -, hrd, hfree⟩ := h
  simp [State.queue, hcap, hrd, hfree, RingRegs.usedRegion, RingRegs.used]

/-- `|Q| = USED` (R32). -/
theorem State.RingInv.queue_length {s : State} {r : RingRegs} (h : s.RingInv r) : s.queue.length = r.used := by
  rw [h.hasRing.queue_eq, List.filterMap_length_eq_length.2 h.usedRegion_holds]
  exact copyCells_length _ _ _

/-- The queue view reads the capacity, the read index, the free count and the store alone. -/
theorem SameBuffer.queue_eq {s t : State} (h : SameBuffer s t) : t.queue = s.queue := by
  simp only [State.queue, h.rbCap, h.rbRd, h.rbFree, h.store]

theorem RingRegs.sound.afterWrite_usedRegion {idxW : Nat} {r : RingRegs} (h : r.sound idxW) {n : Nat}
    (hn : n ≤ r.free) : (r.afterWrite n).usedRegion = r.usedRegion ++ copyCells r.cap r.wr n := by
  rw [RingRegs.usedRegion, h.afterWrite_used hn, ← h.advanceIndex_rd]
  exact copyCells_add r.cap r.rd r.used n

theorem RingRegs.usedRegion_eq_afterRead {r : RingRegs} {n : Nat} (hn : n ≤ r.used) :
    r.usedRegion = copyCells r.cap r.rd n ++ (r.afterRead n).usedRegion := by
  have hsplit := copyCells_add r.cap r.rd n (r.used - n)
  rw [Nat.add_sub_cancel' hn] at hsplit
  rw [RingRegs.usedRegion, hsplit, ← r.afterRead_used]
  rfl

section Ring

variable {s : State} {r : RingRegs} (h : s.RingInv r)

include h

/-- A write's commit appends the bytes it has copied (R32). -/
theorem State.RingInv.queue_pCommit {l : WriteLatch} (hp : s.portP = .copy l) (heq : l.i = l.n) :
    ((s.bookWrite (advanceIndex r.cap r.wr l.n) (r.free - l.n)).setPortP .idle).queue =
      s.queue ++ l.data.take l.n := by
  obtain ⟨-, hn, hnlen, -, hdata, hcopied⟩ := h.write_copy hp
  have hbytes : (copyCells r.cap r.wr l.n).filterMap s.store.read = l.data.take l.n :=
    filterMap_copyCells_eq_take (hdata ▸ hnlen) fun k hk => hcopied k (heq ▸ hk)
  rw [(h.pCommit hp heq).hasRing.queue_eq, h.hasRing.queue_eq, h.sound.afterWrite_usedRegion hn,
    List.filterMap_append, ← hbytes]
  rfl

/-- A read's commit removes the bytes it has copied (R32). -/
theorem State.RingInv.queue_cCommit {l : ReadLatch} (hc : s.portC = .copy l) (heq : l.i = l.n) :
    s.queue = l.data.take l.n ++
      ((s.bookRead (advanceIndex r.cap r.rd l.n) (r.free + l.n)).setPortC .idle).queue := by
  obtain ⟨-, hn, -, -, hdata, hcopied⟩ := h.read_copy hc
  have hbytes : (copyCells r.cap r.rd l.n).filterMap s.store.read = l.data.take l.n :=
    filterMap_copyCells_eq_take (by omega) fun k hk => hcopied k (heq ▸ hk)
  rw [(h.cCommit hc).hasRing.queue_eq, h.hasRing.queue_eq, RingRegs.usedRegion_eq_afterRead hn,
    List.filterMap_append, hbytes]
  rfl

/-- A write's copy step fills a cell outside the used region, so the queue stays (R31, R32). -/
theorem State.RingInv.queue_pCopy {l : WriteLatch} {b : Byte} (hp : s.portP = .copy l) (hlt : l.i < l.n)
    (hb : l.data[l.i]? = some b) :
    ((s.setStore (s.store.write (ea r.cap r.wr l.i) b)).setPortP (.copy { l with i := l.i + 1 })).queue =
      s.queue := by
  obtain ⟨-, hn, -⟩ := h.write_copy hp
  rw [(h.pCopy hp hlt hb).hasRing.queue_eq, h.hasRing.queue_eq]
  refine List.filterMap_congr fun a ha => ?_
  obtain ⟨k, hk, rfl⟩ := mem_copyCells.1 ha
  exact h.read_used_write hk (hlt.trans_le hn) b

end Ring

section Event

variable {s t : State}

/-- An event that is no commit and keeps the buffer keeps the queue. -/
theorem EventEffect.queue_eq {e : Event} (h : EventEffect s e t) (hs : s.Inv) (hk : e.keepsBuffer s = true)
    (hwrite : ∀ l, e = .advance .p → s.portP = .copy l → l.i ≠ l.n)
    (hread : ∀ l, e = .advance .c → s.portC = .copy l → l.i ≠ l.n) : t.queue = s.queue := by
  cases h with
  | op hdecode ho => exact (ho.sameBuffer (initSucceeds_of_keepsBuffer hdecode hk)).queue_eq
  | pCopy hp hlt hi hcap hwr hb hea =>
    obtain ⟨r, hr⟩ := hs.ring_of_write hp
    obtain rfl := hr.hasRing.cap_eq hcap
    obtain rfl := hr.hasRing.wr_eq hwr
    exact hr.queue_pCopy hp hlt hb
  | pCommit hp heq => exact absurd heq (hwrite _ rfl hp)
  | cCommit hc heq => exact absurd heq (hread _ rfl hc)
  | reset => cases hk
  | refused | pIdle | cIdle | cCopy => rfl

/-- With all its bytes copied, a write's next step is its commit, which appends them to the queue. -/
theorem EventEffect.queue_of_pCommit (h : EventEffect s (.advance .p) t) (hs : s.Inv) {l : WriteLatch}
    (hp : s.portP = .copy l) (heq : l.i = l.n) : t.queue = s.queue ++ l.data.take l.n := by
  cases h with
  | pIdle hidle =>
    rw [hp] at hidle
    cases hidle
  | pCopy hp' hlt =>
    obtain rfl := WritePhase.copy.inj (hp.symm.trans hp')
    exact absurd heq hlt.ne
  | pCommit hp' _ hcap hwr hfree =>
    obtain rfl := WritePhase.copy.inj (hp.symm.trans hp')
    obtain ⟨r, hr⟩ := hs.ring_of_write hp
    obtain rfl := hr.hasRing.cap_eq hcap
    obtain rfl := hr.hasRing.wr_eq hwr
    obtain rfl := hr.hasRing.free_eq hfree
    exact hr.queue_pCommit hp heq

/-- With all its bytes copied, a read's next step is its commit, which removes them from the queue and delivers them. -/
theorem EventEffect.queue_of_cCommit (h : EventEffect s (.advance .c) t) (hs : s.Inv) {l : ReadLatch}
    (hc : s.portC = .copy l) (heq : l.i = l.n) :
    s.queue = l.data.take l.n ++ t.queue ∧ t.results = s.results ++ [⟨.c, .read l.n (l.data.take l.n)⟩] := by
  cases h with
  | cIdle hidle =>
    rw [hc] at hidle
    cases hidle
  | cCopy hc' hlt =>
    obtain rfl := ReadPhase.copy.inj (hc.symm.trans hc')
    exact absurd heq hlt.ne
  | cCommit hc' _ hcap hrd hfree =>
    obtain rfl := ReadPhase.copy.inj (hc.symm.trans hc')
    obtain ⟨r, hr⟩ := hs.ring_of_read hc
    obtain rfl := hr.hasRing.cap_eq hcap
    obtain rfl := hr.hasRing.rd_eq hrd
    obtain rfl := hr.hasRing.free_eq hfree
    exact ⟨hr.queue_cCommit hc heq, rfl⟩

end Event

/-- Settles O31: the length is `USED` by the invariant of the next state, and each clause is the queue lemma of its
effect. -/
theorem queueChangesOnlyByCommits : Obligations.QueueChangesOnlyByCommits := by
  unfold Obligations.QueueChangesOnlyByCommits
  intro s t e rest hs hi hagenda hk hstep
  have h := step_effect hagenda hstep
  have hs' : (s.withAgenda rest).Inv := State.inv_withAgenda.2 hs
  refine ⟨?_, ?_, ?_, fun hwrite hread => h.queue_eq hs' hk hwrite hread⟩
  · obtain ⟨hinited, -⟩ := h.rbInited_rbCap_eq hk
    obtain ⟨r, hr⟩ := (hs.step hstep).ring_of_inited (hinited.trans hi)
    exact ⟨r, hr.hasRing, hr.queue_length⟩
  · rintro l rfl hp heq
    exact h.queue_of_pCommit hs' hp heq
  · rintro l rfl hc heq
    exact h.queue_of_cCommit hs' hc heq

end Sys2Proof.Machine
end

section
/-! SUPPORT. The wrap split of a copy (R38): a copy that stays within the store is one contiguous range of cells, and
the wrap split cuts a copy where its index wraps to 0. -/

namespace Sys2Proof.Machine

/-- A copy that does not cross the end of the store is one contiguous move. -/
theorem copyCells_eq_range' {cap base n : Nat} (h : base + n ≤ cap) :
    copyCells cap base n = List.range' base n := by
  rw [copyCells, List.range'_eq_map_range]
  refine List.map_congr_left fun k hk => ?_
  have hk : k < n := List.mem_range.1 hk
  exact Nat.mod_eq_of_lt (by omega)

/-- A range that ends exactly at the end of the store makes the commit wrap the index to 0. -/
theorem advanceIndex_eq_zero {cap base n : Nat} (h : base + n = cap) : advanceIndex cap base n = 0 := by
  rw [advanceIndex, h, Nat.mod_self]

theorem wrapSplit_of_le {cap base n : Nat} (h : base + n ≤ cap) : wrapSplit cap base n = (n, 0) := by
  have hmin : min n (cap - base) = n := by omega
  simp [wrapSplit, hmin]

theorem wrapSplit_of_lt {cap base n : Nat} (h : cap < base + n) :
    wrapSplit cap base n = (cap - base, n - (cap - base)) := by
  have hmin : min n (cap - base) = cap - base := by omega
  simp [wrapSplit, hmin]

/-- The second move exists only if the copy crosses the end of the store. -/
theorem wrapSplit_snd_ne_zero_iff {cap base n : Nat} (hb : base < cap) :
    (wrapSplit cap base n).2 ≠ 0 ↔ cap < base + n := by
  rcases Nat.lt_or_ge cap (base + n) with hcross | hin
  · rw [wrapSplit_of_lt hcross]
    omega
  · rw [wrapSplit_of_le hin]
    omega

/-- The two moves of the wrap split touch the cells of the copy in stream order: the first move ends at the end of the
store, where the index wraps to 0, and the second goes on from there. -/
theorem splitCells_eq_copyCells {cap base n : Nat} (hb : base < cap) (hn : n ≤ cap) :
    splitCells cap base n = copyCells cap base n := by
  rcases Nat.lt_or_ge cap (base + n) with hcross | hin
  · have hfirst : base + (cap - base) = cap := Nat.add_sub_of_le hb.le
    have hsum : cap - base + (n - (cap - base)) = n := by omega
    calc splitCells cap base n
        = List.range' base (cap - base) ++ List.range' 0 (n - (cap - base)) := by
          rw [splitCells, wrapSplit_of_lt hcross, List.range_eq_range']
      _ = copyCells cap base (cap - base) ++ copyCells cap 0 (n - (cap - base)) := by
          rw [copyCells_eq_range' hfirst.le, copyCells_eq_range' (by omega)]
      _ = copyCells cap base n := by
          rw [← advanceIndex_eq_zero hfirst, ← copyCells_add, hsum]
  · rw [splitCells, wrapSplit_of_le hin, copyCells_eq_range' hin]
    exact List.append_nil _

/-- Settles O37: the sum of an index and an offset below `RB_CAP` needs one subtraction, and a copy is cut at the end of
the store, where its index wraps to 0. -/
theorem wrapSplitTouchesSameCells : Obligations.WrapSplitTouchesSameCells := by
  unfold Obligations.WrapSplitTouchesSameCells
  refine ⟨fun cap base k hb hk => add_mod_eq_ite hb hk, fun cap b n hb hn => ⟨rfl, ?_, ?_, ?_⟩⟩
  · exact splitCells_eq_copyCells hb hn
  · exact wrapSplit_snd_ne_zero_iff hb
  · exact advanceIndex_eq_zero

end Sys2Proof.Machine
end

section
/-! SUPPORT. Decoding and encoding are inverse to each other (R49, R50, R60 to R62). Encoding first: the byte of an
encoded operation selects the operation's row, and the row's format reads the operands back. Decoding first: the map
has one row per name, so an operation has one byte; the row has one port, unless the operation is a status read, which
keeps its port as an operand; and the format keeps the operand fields as they are. -/

namespace Sys2Proof

/-! ## Rows of the operation byte map -/

/-- The row found is one of R50 with the byte asked for, accepted at the port. -/
theorem lookupRow_some {port : Port} {op : Byte} {row : OpRow} (h : lookupRow port op = some row) :
    row ∈ opTable ∧ row.op = op ∧ port ∈ row.ports := by
  have hfound := List.find?_some h
  simp only [Bool.and_eq_true, beq_iff_eq, List.contains_iff_mem] at hfound
  exact ⟨List.mem_of_find?_eq_some h, hfound⟩

theorem lookupOp_some {port : Port} {op : Byte} {name : OpName} (h : lookupOp port op = some name) :
    ∃ row ∈ opTable, row.name = name ∧ row.op = op ∧ port ∈ row.ports := by
  obtain ⟨row, hrow, hname⟩ := Option.map_eq_some_iff.1 h
  obtain ⟨hmem, hop, hport⟩ := lookupRow_some hrow
  exact ⟨row, hmem, hname, hop, hport⟩

/-- R50 lists each operation once. -/
theorem opTable_name_inj : ∀ row ∈ opTable, ∀ row' ∈ opTable, row.name = row'.name → row = row' := by decide

/-- The status reads alone are accepted at more than one port (R50). -/
theorem opTable_port_unique :
    ∀ row ∈ opTable, row.name ∉ [OpName.rbFree, .rbUsed] →
      ∀ port ∈ row.ports, ∀ port' ∈ row.ports, port = port' := by
  decide

/-- An operation name has one byte. -/
theorem lookupOp_op_inj {port port' : Port} {op op' : Byte} {name : OpName} (h : lookupOp port op = some name)
    (h' : lookupOp port' op' = some name) : op = op' := by
  obtain ⟨row, hmem, hname, hop, -⟩ := lookupOp_some h
  obtain ⟨row', hmem', hname', hop', -⟩ := lookupOp_some h'
  rw [← hop, ← hop', opTable_name_inj row hmem row' hmem' (hname.trans hname'.symm)]

/-- An operation name that is no status read has one port. -/
theorem lookupOp_port_inj {port port' : Port} {op op' : Byte} {name : OpName} (h : lookupOp port op = some name)
    (h' : lookupOp port' op' = some name) (hstatus : name ∉ [OpName.rbFree, .rbUsed]) : port = port' := by
  obtain ⟨row, hmem, hname, -, hport⟩ := lookupOp_some h
  obtain ⟨row', hmem', hname', -, hport'⟩ := lookupOp_some h'
  have hrow : row' = row := opTable_name_inj row' hmem' row hmem (hname'.trans hname.symm)
  exact opTable_port_unique row hmem (hname ▸ hstatus) port hport port' (hrow ▸ hport')

/-- The byte of every encoded operation selects the operation's own row. -/
theorem encodedOp_statement (i : Instr) : Laws.EncodedOp.Statement i :=
  match i with
  | .rbInit storagePresent capacity => Laws.EncodedOp.rbInit storagePresent capacity
  | .rbWrite len data => Laws.EncodedOp.rbWrite len data
  | .rbRead maxLen => Laws.EncodedOp.rbRead maxLen
  | .rbFree port => Laws.EncodedOp.rbFree port
  | .rbUsed port => Laws.EncodedOp.rbUsed port
  | .crcClr => Laws.EncodedOp.crcClr
  | .crcUpd b => Laws.EncodedOp.crcUpd b
  | .crcFin => Laws.EncodedOp.crcFin
  | .pktSoh body => Laws.EncodedOp.pktSoh body
  | .pktStx body => Laws.EncodedOp.pktStx body
  | .pktEot => Laws.EncodedOp.pktEot
  | .pktAck => Laws.EncodedOp.pktAck
  | .pktNak => Laws.EncodedOp.pktNak
  | .pktCan => Laws.EncodedOp.pktCan
  | .pktAbort1 => Laws.EncodedOp.pktAbort1
  | .pktCrcReq => Laws.EncodedOp.pktCrcReq
  | .pktAbort2 => Laws.EncodedOp.pktAbort2

theorem lookupOp_encode (i : Instr) : lookupOp (encode i).1 (encode i).2.op = some i.name :=
  (encodedOp_statement i).1

/-! ## Decoding what was encoded -/

theorem decode_of_lookupOp {idxW : Nat} {port : Port} {r : Record} {name : OpName}
    (h : lookupOp port r.op = some name) : decode idxW port r = assembleRecord idxW port name r.operands := by
  simp [decode, h]

theorem ifWellFormed_of_wellFormed {idxW : Nat} {i : Instr} (h : i.wellFormed idxW = true) :
    ifWellFormed idxW i = .ok i := if_pos h

theorem noOperands_eq_nil {i j : Instr} {operands : List Operand} (h : noOperands i operands = .ok j) :
    operands = [] := by
  cases operands <;> cases h
  rfl

theorem RbPort.toPort_of_toRbPort {port : Port} {q : RbPort} (h : port.toRbPort = some q) : q.toPort = port := by
  cases port <;> cases h <;> rfl

/-- A status operation is assembled from a record without operands, at the port that the operation names. -/
theorem statusAt_eq_ok {mk : RbPort → Instr} {port : Port} {operands : List Operand} {i : Instr} :
    statusAt mk port operands = .ok i ↔ ∃ q : RbPort, q.toPort = port ∧ operands = [] ∧ mk q = i := by
  constructor
  · intro h
    unfold statusAt at h
    split at h
    next q hq => exact ⟨q, RbPort.toPort_of_toRbPort hq, noOperands_eq_nil h, (noOperands_ok h).symm⟩
    next => cases h
  · rintro ⟨q, rfl, rfl, rfl⟩
    cases q <;> rfl

/-- Operand assembly reads the fields of an encoded operation back (R60). -/
theorem assembleRecord_encode {idxW : Nat} {i : Instr} (h : i.wellFormed idxW = true) :
    assembleRecord idxW (encode i).1 i.name (encode i).2.operands = .ok i := by
  cases i
  case rbInit | rbWrite | rbRead => exact ifWellFormed_of_wellFormed h
  case rbFree q | rbUsed q => exact statusAt_eq_ok.2 ⟨q, rfl, rfl, rfl⟩
  all_goals rfl

theorem decode_encode {idxW : Nat} {i : Instr} (h : i.wellFormed idxW = true) :
    decode idxW (encode i).1 (encode i).2 = .ok i := by
  rw [decode_of_lookupOp (lookupOp_encode i)]
  exact assembleRecord_encode h

/-- Settles O2: the encoded byte selects the operation's row, whose format reads the operands back. -/
theorem decodeOfEncodeIsIdentity : Obligations.DecodeOfEncodeIsIdentity := by
  unfold Obligations.DecodeOfEncodeIsIdentity
  exact fun idxW i h => decode_encode h

/-! ## Encoding what was decoded -/

/-- Operand assembly keeps every field of the record as it is (R60). -/
theorem assembleRecord_operands {idxW : Nat} {port : Port} {name : OpName} {operands : List Operand} {i : Instr}
    (h : assembleRecord idxW port name operands = .ok i) : (encode i).2.operands = operands := by
  cases name
  case rbFree | rbUsed =>
    obtain ⟨q, -, rfl, rfl⟩ := statusAt_eq_ok.1 h
    rfl
  case rbInit | rbWrite | rbRead =>
    simp only [assembleRecord] at h
    split at h
    · rw [ifWellFormed_ok h]; rfl
    · cases h
  case crcUpd | pktSoh | pktStx =>
    simp only [assembleRecord] at h
    split at h <;> cases h
    rfl
  all_goals rw [noOperands_ok h, noOperands_eq_nil h]; rfl

/-- A status operation keeps the port it was requested at (R54). -/
theorem assembleRecord_status_port {idxW : Nat} {port : Port} {name : OpName} {operands : List Operand} {i : Instr}
    (h : assembleRecord idxW port name operands = .ok i) (hstatus : name ∈ [OpName.rbFree, .rbUsed]) :
    (encode i).1 = port := by
  have hname : name = .rbFree ∨ name = .rbUsed := by simpa using hstatus
  rcases hname with rfl | rfl
  all_goals
    obtain ⟨q, hport, -, rfl⟩ := statusAt_eq_ok.1 h
    exact hport

theorem encode_of_decode {idxW : Nat} {port : Port} {r : Record} {i : Instr} (h : decode idxW port r = .ok i) :
    encode i = (port, r) := by
  unfold decode at h
  split at h
  next name hlookup =>
    have hencoded : lookupOp (encode i).1 (encode i).2.op = some name := assembleRecord_name h ▸ lookupOp_encode i
    have hport : (encode i).1 = port := by
      by_cases hstatus : name ∈ [OpName.rbFree, .rbUsed]
      · exact assembleRecord_status_port h hstatus
      · exact lookupOp_port_inj hencoded hlookup hstatus
    have hop : (encode i).2.op = r.op := lookupOp_op_inj hencoded hlookup
    have hoperands : (encode i).2.operands = r.operands := assembleRecord_operands h
    calc encode i = ((encode i).1, ⟨(encode i).2.op, (encode i).2.operands⟩) := rfl
      _ = (port, r) := by rw [hport, hop, hoperands]
  next => cases h

/-- Settles O3: port, byte and operand fields of a decoded record are those of its operation's encoding. -/
theorem encodeOfDecodeIsIdentity : Obligations.EncodeOfDecodeIsIdentity := by
  unfold Obligations.EncodeOfDecodeIsIdentity
  exact fun idxW port r i h => ⟨encode_of_decode h, decode_wellFormed h⟩

/-! ## Records written out -/

/-- Settles O1: each record is evaluated. -/
theorem specRecordsDecode : Obligations.SpecRecordsDecode := by
  unfold Obligations.SpecRecordsDecode
  decide

end Sys2Proof
end

section
/-! SUPPORT. A record is invalid by its operation byte alone (R61, R62): the bytes a port accepts are those of its rows,
and the operands of an accepted byte can be malformed but never invalid. -/

namespace Sys2Proof

/-- The accepted bytes of a port (R49) are the bytes of the rows of R50 that list it. -/
theorem acceptedBytes_eq_rows (port : Port) :
    Machine.acceptedBytes port = (opTable.filter fun row => row.ports.contains port).map (·.op) := by
  cases port <;> rfl

theorem mem_acceptedBytes {port : Port} {op : Byte} :
    op ∈ Machine.acceptedBytes port ↔ ∃ row ∈ opTable, row.op = op ∧ port ∈ row.ports := by
  simp [acceptedBytes_eq_rows, and_assoc, and_comm]

theorem lookupOp_eq_none_iff {port : Port} {op : Byte} :
    lookupOp port op = none ↔ op ∉ Machine.acceptedBytes port := by
  simp [lookupOp, lookupRow, mem_acceptedBytes]

theorem ifWellFormed_ne_invalidOp {idxW : Nat} {i : Instr} : ifWellFormed idxW i ≠ .error .invalidOp := by
  unfold ifWellFormed
  split <;> simp

theorem noOperands_ne_invalidOp {i : Instr} {operands : List Operand} :
    noOperands i operands ≠ .error .invalidOp := by
  cases operands <;> simp [noOperands]

/-- A status operation is invalid at port V alone. -/
theorem statusAt_ne_invalidOp {mk : RbPort → Instr} {port : Port} {operands : List Operand} (hport : port ≠ .v) :
    statusAt mk port operands ≠ .error .invalidOp := by
  cases port
  case v => exact absurd rfl hport
  all_goals exact noOperands_ne_invalidOp

/-- The operands of a byte that its port accepts are assembled or malformed. -/
theorem assembleRecord_ne_invalidOp {idxW : Nat} {port : Port} {op : Byte} {name : OpName} {operands : List Operand}
    (h : lookupOp port op = some name) : assembleRecord idxW port name operands ≠ .error .invalidOp := by
  have hunit := lookupOp_ofUnitCrc h
  cases name
  case rbFree | rbUsed => exact statusAt_ne_invalidOp (of_decide_eq_false hunit.symm)
  case rbInit | rbWrite | rbRead =>
    simp only [assembleRecord]
    split
    · exact ifWellFormed_ne_invalidOp
    · simp
  case crcUpd | pktSoh | pktStx =>
    simp only [assembleRecord]
    split <;> simp
  all_goals exact noOperands_ne_invalidOp

theorem decode_eq_invalidOp_iff {idxW : Nat} {port : Port} {r : Record} :
    decode idxW port r = .error .invalidOp ↔ lookupOp port r.op = none := by
  cases h : lookupOp port r.op with
  | none => simp [decode, h]
  | some name => simpa [decode_of_lookupOp h] using assembleRecord_ne_invalidOp h

/-- Settles O4: decoding is invalid exactly when the byte has no row at the port. -/
theorem invalidExactlyForUnacceptedBytes : Obligations.InvalidExactlyForUnacceptedBytes := by
  unfold Obligations.InvalidExactlyForUnacceptedBytes
  exact fun idxW port r => decode_eq_invalidOp_iff.trans lookupOp_eq_none_iff

end Sys2Proof
end

section
/-! SUPPORT. The streaming CRC (R63): one step per request of the sequence, and the bytes by induction. -/

namespace Sys2Proof.Machine

theorem issue_of_decode {port : Port} {r : Record} {i : Instr} {s : State} (h : decode s.idxW port r = .ok i) :
    issue port r s = settle port s (exec i s) := by
  simp [issue, h]

/-- The request of a well-formed operation that answers a next state is one step to that state. -/
theorem step_requestOf {i : Instr} {s t : State} {rest : List Event} (hs : s.agenda = requestOf i :: rest)
    (hi : i.wellFormed s.idxW = true) (ht : exec i (s.withAgenda rest) = .next t) : step s = .next t := by
  rw [step_of_agenda hs]
  calc issue (encode i).1 (encode i).2 (s.withAgenda rest)
      = settle (encode i).1 (s.withAgenda rest) (exec i (s.withAgenda rest)) := issue_of_decode (decode_encode hi)
    _ = .next t := by rw [ht]; rfl

theorem execCrcUpd_of_crcAcc {s : State} {c : CrcWord} (h : s.crcAcc = some c) (b : Byte) :
    execCrcUpd b s = .next (s.setCrc (crcUpdate c b)) := by
  rw [execCrcUpd, State.readAcc_eq_next.2 h]
  rfl

theorem execCrcFin_of_crcAcc {s : State} {c : CrcWord} (h : s.crcAcc = some c) :
    execCrcFin s = .next ((s.setCrc (crcFinish c)).deliver .v (.crc (crcFinish c))) := by
  rw [execCrcFin, State.readAcc_eq_next.2 h]
  rfl

/-- One `CRC.UPD` per byte takes the accumulator through the loop of R82. -/
theorem run_crcUpds (s : State) (c : CrcWord) (data : List Byte) (rest : List Event) (k : Nat) :
    Sys2Proof.core.run (data.length + k)
        ((s.withAgenda (data.map (fun b => requestOf (.crcUpd b)) ++ rest)).setCrc c) =
      Sys2Proof.core.run k ((s.withAgenda rest).setCrc (crcFeed c data)) := by
  induction data generalizing c with
  | nil => rw [List.length_nil, Nat.zero_add]; rfl
  | cons b d ih =>
    rw [List.length_cons, Nat.add_right_comm, crcFeed_cons, ← ih (crcUpdate c b)]
    exact run_of_step (step_requestOf rfl rfl (execCrcUpd_of_crcAcc rfl b))

/-- Settles O41: the accumulator is cleared, fed by induction over the bytes, and finished. -/
theorem crcStreamReturnsCrc16 : Obligations.CrcStreamReturnsCrc16 := by
  unfold Obligations.CrcStreamReturnsCrc16
  intro s data rest hs
  have hagenda : s.agenda =
      requestOf .crcClr :: (data.map (fun b => requestOf (.crcUpd b)) ++ requestOf .crcFin :: rest) := by
    simpa [crcCalc] using hs
  have hclr : step s = .next ((s.withAgenda
      (data.map (fun b => requestOf (.crcUpd b)) ++ requestOf .crcFin :: rest)).setCrc Config.crcInit) :=
    step_requestOf hagenda rfl rfl
  have hfin : step ((s.withAgenda (requestOf .crcFin :: rest)).setCrc (crcFeed Config.crcInit data)) =
      .next (((s.withAgenda rest).setCrc (crc16 data)).deliver .v (.crc (crc16 data))) :=
    step_requestOf rfl rfl (execCrcFin_of_crcAcc rfl)
  rw [run_of_step hclr, run_crcUpds, run_of_step hfin]
  rfl

end Sys2Proof.Machine
end

section
/-! SUPPORT. What the operations of unit RB and the steps of their agents answer, said once: forward lemmas to the
inversion lemmas of Laws/RingBuffer. Every data and status request begins with the same two conditions (R109), which
have three lemmas here and not three in each operation. -/

namespace Sys2Proof.Machine

/-! ## The conditions of a data or status request -/

section Conditions

variable {s : State} {q : RbPort}

/-- The phase latch of the port is `IDLE`; port CFG has none (R27). -/
theorem State.busyAt_eq_false :
    s.busyAt q = false ↔ (q = .p → s.portP = .idle) ∧ (q = .c → s.portC = .idle) := by
  cases q <;> simp [State.busyAt, State.busyP_eq_false, State.busyC_eq_false]

theorem State.busyAt_eq_true : s.busyAt q = true ↔ q = .p ∧ s.portP ≠ .idle ∨ q = .c ∧ s.portC ≠ .idle := by
  cases q <;> simp [State.busyAt, State.busyP, State.busyC]

theorem request_ready (hi : s.rbInited = true) (hq : s.busyAt q = false) (k : Res State) :
    (andThen (requireInit s) fun _ => andThen (requirePortIdle q s) fun _ => k) = k := by
  rw [(requireInit_eq_next (u := ())).2 hi, (requirePortIdle_eq_next (u := ())).2 hq]
  rfl

theorem request_useBeforeInit (hi : s.rbInited = false) (k : Res State) :
    (andThen (requireInit s) fun _ => andThen (requirePortIdle q s) fun _ => k) = .refused .useBeforeInit := by
  simp [requireInit, hi]

theorem request_portBusy (hi : s.rbInited = true) (hq : s.busyAt q = true) (k : Res State) :
    (andThen (requireInit s) fun _ => andThen (requirePortIdle q s) fun _ => k) = .refused .portBusy := by
  rw [(requireInit_eq_next (u := ())).2 hi]
  simp [requirePortIdle, hq]

end Conditions

theorem State.readCap_of_some {s : State} {x : Nat} (h : s.rbCap = some x) : s.readCap = .next x :=
  readRegister_eq_next.2 h

theorem State.readWr_of_some {s : State} {x : Nat} (h : s.rbWr = some x) : s.readWr = .next x :=
  readRegister_eq_next.2 h

theorem State.readRd_of_some {s : State} {x : Nat} (h : s.rbRd = some x) : s.readRd = .next x :=
  readRegister_eq_next.2 h

theorem State.readFree_of_some {s : State} {x : Nat} (h : s.rbFree = some x) : s.readFree = .next x :=
  readRegister_eq_next.2 h

/-! ## Requests -/

section Requests

variable {s : State}

theorem pSnap_of_idle {len f : Nat} {data : List Byte} (hi : s.rbInited = true) (hp : s.portP = .idle)
    (hf : s.rbFree = some f) :
    pSnap len data s = .next (s.setPortP (.copy ⟨len, data, acceptCount len f, 0⟩)) := by
  rw [pSnap, request_ready (q := .p) hi (State.busyP_eq_false.2 hp), State.readFree_of_some hf]
  rfl

theorem cSnap_of_idle {maxLen cap f : Nat} (hi : s.rbInited = true) (hc : s.portC = .idle)
    (hcap : s.rbCap = some cap) (hf : s.rbFree = some f) (hle : f ≤ cap) :
    cSnap maxLen s = .next (s.setPortC (.copy ⟨maxLen, deliverCount (cap - f) maxLen, 0, []⟩)) := by
  rw [cSnap, request_ready (q := .c) hi (State.busyC_eq_false.2 hc), State.readFree_of_some hf,
    State.readCap_of_some hcap]
  simp only [andThen_next, usedCount_eq_next.2 ⟨hle, rfl⟩]

theorem execRbFree_of_ready {q : RbPort} {f : Nat} (hi : s.rbInited = true) (hq : s.busyAt q = false)
    (hf : s.rbFree = some f) : execRbFree q s = .next (s.deliver q.toPort (.count f)) := by
  rw [execRbFree, request_ready hi hq, State.readFree_of_some hf]
  rfl

theorem execRbUsed_of_ready {q : RbPort} {cap f : Nat} (hi : s.rbInited = true) (hq : s.busyAt q = false)
    (hcap : s.rbCap = some cap) (hf : s.rbFree = some f) (hle : f ≤ cap) :
    execRbUsed q s = .next (s.deliver q.toPort (.count (cap - f))) := by
  rw [execRbUsed, request_ready hi hq, State.readFree_of_some hf, State.readCap_of_some hcap]
  simp only [andThen_next, usedCount_eq_next.2 ⟨hle, rfl⟩]

end Requests

/-- Settles O17: the phases are tested first, then the operands (R103). -/
theorem initCreatesBufferOrFails : Obligations.InitCreatesBufferOrFails := by
  unfold Obligations.InitCreatesBufferOrFails
  refine ⟨fun sp capacity => rfl, rfl, rfl, fun s sp capacity hbusy => ?_, fun s sp capacity hp hc hfail => ?_,
    fun s capacity hp hc hcap => ?_⟩
  · have hflag : (s.busyP || s.busyC) = true := by simpa [State.busyP, State.busyC] using hbusy
    simp [exec, execRbInit, requireBothIdle, hflag]
  · rw [exec, execRbInit, (requireBothIdle_eq_next (u := ())).2 ⟨hp, hc⟩]
    exact if_pos hfail
  · rw [exec, execRbInit, (requireBothIdle_eq_next (u := ())).2 ⟨hp, hc⟩]
    exact if_neg (by simp [hcap])

/-- Settles O18: the snapshot of an idle port P. -/
theorem writeTakesSnapshot : Obligations.WriteTakesSnapshot := by
  unfold Obligations.WriteTakesSnapshot
  exact fun s len data f hi hp hf => pSnap_of_idle hi hp hf

/-- Settles O21: the snapshot of an idle port C. -/
theorem readTakesSnapshot : Obligations.ReadTakesSnapshot := by
  unfold Obligations.ReadTakesSnapshot
  exact fun s maxLen cap f hi hc hcap hf hle => cSnap_of_idle hi hc hcap hf hle

/-- Settles O24: the count of a ready port, or the first of the two conditions that fails. -/
theorem freeReturnsFreeCount : Obligations.FreeReturnsFreeCount := by
  unfold Obligations.FreeReturnsFreeCount
  refine fun s q => ⟨rfl, fun f hi hp hc hf => ?_, fun hi => ?_, fun hi hbusy => ?_⟩
  · exact execRbFree_of_ready hi (State.busyAt_eq_false.2 ⟨hp, hc⟩) hf
  · exact request_useBeforeInit hi _
  · exact request_portBusy hi (State.busyAt_eq_true.2 hbusy) _

/-- Settles O25: the count of a ready port, or the first of the two conditions that fails. -/
theorem usedReturnsUsedCount : Obligations.UsedReturnsUsedCount := by
  unfold Obligations.UsedReturnsUsedCount
  refine fun s q => ⟨rfl, fun cap f hi hp hc hcap hf hle => ?_, fun hi => ?_, fun hi hbusy => ?_⟩
  · exact execRbUsed_of_ready hi (State.busyAt_eq_false.2 ⟨hp, hc⟩) hcap hf hle
  · exact request_useBeforeInit hi _
  · exact request_portBusy hi (State.busyAt_eq_true.2 hbusy) _

/-- Settles O26: the first of the two conditions that fails, at port P and at port C. -/
theorem dataRequestsRefused : Obligations.DataRequestsRefused := by
  unfold Obligations.DataRequestsRefused
  refine fun s =>
    ⟨fun hi => ⟨fun len data => ?_, fun maxLen => ?_⟩, fun hi hp len data => ?_, fun hi hc maxLen => ?_⟩
  · exact request_useBeforeInit hi _
  · exact request_useBeforeInit hi _
  · exact request_portBusy hi (State.busyAt_eq_true.2 (.inl ⟨rfl, hp⟩)) _
  · exact request_portBusy hi (State.busyAt_eq_true.2 (.inr ⟨rfl, hc⟩)) _

/-! ## The steps of an agent -/

section Agents

variable {s : State}

/-- With bytes left, agent P copies one byte (R67). -/
theorem advanceP_copy {l : WriteLatch} {cap wr : Nat} {b : Byte} (hi : s.rbInited = true) (hp : s.portP = .copy l)
    (hlt : l.i < l.n) (hcap : s.rbCap = some cap) (hpos : 0 < cap) (hwr : s.rbWr = some wr)
    (hb : l.data[l.i]? = some b) :
    advanceP s =
      .next ((s.setStore (s.store.write (ea cap wr l.i) b)).setPortP (.copy { l with i := l.i + 1 })) := by
  have hcurrent : l.current = .next b := by simp [WriteLatch.current, hb]
  have hwrite : storeWrite (ea cap wr l.i) b s = .next (s.setStore (s.store.write (ea cap wr l.i) b)) :=
    storeWrite_eq_next.2 ⟨hi, cap, hcap, ea_lt hpos, rfl⟩
  simp only [advanceP, hp, if_pos hlt, pCopy, State.readCap_of_some hcap, State.readWr_of_some hwr, hcurrent,
    andThen_next, hwrite]

/-- With no bytes left, agent P commits the write (R68). -/
theorem advanceP_commit {l : WriteLatch} {cap wr free : Nat} (hp : s.portP = .copy l) (heq : l.i = l.n)
    (hcap : s.rbCap = some cap) (hwr : s.rbWr = some wr) (hfree : s.rbFree = some free) (hle : l.n ≤ free) :
    advanceP s =
      .next (((s.bookWrite (advanceIndex cap wr l.n) (free - l.n)).setPortP .idle).deliver .p (.written l.n)) := by
  simp only [advanceP, hp, if_neg heq.not_lt, pCommit, if_pos heq, State.readCap_of_some hcap,
    State.readWr_of_some hwr, State.readFree_of_some hfree, andThen_next, takeFree_eq_next.2 ⟨hle, rfl⟩]

/-- With bytes left, agent C copies one byte (R71). -/
theorem advanceC_copy {l : ReadLatch} {cap rd : Nat} {b : Byte} (hi : s.rbInited = true) (hc : s.portC = .copy l)
    (hlt : l.i < l.n) (hcap : s.rbCap = some cap) (hpos : 0 < cap) (hrd : s.rbRd = some rd)
    (hb : s.store.read (ea cap rd l.i) = some b) :
    advanceC s = .next (s.setPortC (.copy { l with i := l.i + 1, data := l.data ++ [b] })) := by
  have hread : storeRead (ea cap rd l.i) s = .next b := storeRead_eq_next.2 ⟨hi, cap, hcap, ea_lt hpos, hb⟩
  simp only [advanceC, hc, if_pos hlt, cCopy, State.readCap_of_some hcap, State.readRd_of_some hrd, andThen_next,
    hread]

/-- With no bytes left, agent C commits the read (R72). -/
theorem advanceC_commit {l : ReadLatch} {cap rd free : Nat} (hc : s.portC = .copy l) (heq : l.i = l.n)
    (hcap : s.rbCap = some cap) (hrd : s.rbRd = some rd) (hfree : s.rbFree = some free)
    (hle : free + l.n ≤ cap) :
    advanceC s =
      .next (((s.bookRead (advanceIndex cap rd l.n) (free + l.n)).setPortC .idle).deliver .c
        (.read l.n (l.data.take l.n))) := by
  simp only [advanceC, hc, if_neg heq.not_lt, cCommit, if_pos heq, State.readCap_of_some hcap,
    State.readRd_of_some hrd, State.readFree_of_some hfree, andThen_next, giveFree_eq_next.2 ⟨hle, rfl⟩]

end Agents

/-- Settles O19: the step is agent P's copy. -/
theorem writeCopyStep : Obligations.WriteCopyStep := by
  unfold Obligations.WriteCopyStep
  intro s rest l cap wr b hs hi hp hlt hcap hpos hwr hb
  rw [step_of_agenda hs]
  exact advanceP_copy (s := s.withAgenda rest) hi hp hlt hcap hpos hwr hb

/-- Settles O20: the step is agent P's commit. -/
theorem writeCommitStep : Obligations.WriteCommitStep := by
  unfold Obligations.WriteCommitStep
  intro s rest l cap wr free hs hp heq hcap hwr hfree hle
  rw [step_of_agenda hs]
  exact advanceP_commit (s := s.withAgenda rest) hp heq hcap hwr hfree hle

/-- Settles O22: the step is agent C's copy. -/
theorem readCopyStep : Obligations.ReadCopyStep := by
  unfold Obligations.ReadCopyStep
  intro s rest l cap rd b hs hi hc hlt hcap hpos hrd hb
  rw [step_of_agenda hs]
  exact advanceC_copy (s := s.withAgenda rest) hi hc hlt hcap hpos hrd hb

/-- Settles O23: the step is agent C's commit. -/
theorem readCommitStep : Obligations.ReadCommitStep := by
  unfold Obligations.ReadCommitStep
  intro s rest l cap rd free hs hc heq hcap hrd hfree hle
  rw [step_of_agenda hs]
  exact advanceC_commit (s := s.withAgenda rest) hc heq hcap hrd hfree hle

/-! ## What an event leaves alone -/

/-- Settles O56: the inversion lemmas of the agents' steps write each next state out; a copy of a write changes one
cell. -/
theorem dataStepsFrame : Obligations.DataStepsFrame := by
  unfold Obligations.DataStepsFrame
  refine ⟨fun s t l cap wr hp hcap hwr h => ?_, fun s t l hc h => ?_⟩
  · obtain ⟨hidle, -⟩ | ⟨l', hp', ⟨hlt, hcopy⟩ | ⟨heq, hcommit⟩⟩ := advanceP_next h
    · rw [hp] at hidle
      cases hidle
    · obtain rfl := WritePhase.copy.inj (hp.symm.trans hp')
      obtain ⟨-, -, cap', wr', b, hcap', hwr', -, -, rfl⟩ := pCopy_next hcopy
      obtain rfl := Option.some.inj (hcap.symm.trans hcap')
      obtain rfl := Option.some.inj (hwr.symm.trans hwr')
      exact ⟨rfl, rfl, rfl, rfl, rfl, rfl, rfl, rfl,
        fun _ => ⟨rfl, rfl, rfl, fun a ha => Memory.read_write_other _ b ha⟩, fun heq => absurd heq hlt.ne⟩
    · obtain rfl := WritePhase.copy.inj (hp.symm.trans hp')
      obtain ⟨-, cap', wr', free, -, -, -, -, rfl⟩ := pCommit_next hcommit
      exact ⟨rfl, rfl, rfl, rfl, rfl, rfl, rfl, rfl, fun hlt => absurd heq hlt.ne, fun _ a => rfl⟩
  · obtain ⟨hidle, -⟩ | ⟨l', hc', ⟨hlt, hcopy⟩ | ⟨heq, hcommit⟩⟩ := advanceC_next h
    · rw [hc] at hidle
      cases hidle
    · obtain ⟨-, -, cap, rd, b, -, -, -, -, rfl⟩ := cCopy_next hcopy
      exact ⟨rfl, rfl, rfl, rfl, rfl, rfl, rfl, rfl, fun a => rfl, fun _ => ⟨rfl, rfl, rfl⟩⟩
    · obtain rfl := ReadPhase.copy.inj (hc.symm.trans hc')
      obtain ⟨-, cap, rd, free, -, -, -, -, rfl⟩ := cCommit_next hcommit
      exact ⟨rfl, rfl, rfl, rfl, rfl, rfl, rfl, rfl, fun a => rfl, fun hlt => absurd heq hlt.ne⟩

/-- An operation leaves a write in flight alone: the snapshot of a write needs an idle port (R66). -/
theorem OpEffect.portP_of_copy {s t : State} {i : Instr} {l : WriteLatch} (h : OpEffect s i t)
    (hp : s.portP = .copy l) : t.portP = .copy l := by
  cases h with
  | pSnap _ hidle =>
    rw [hp] at hidle
    cases hidle
  | _ => exact hp

/-- An operation leaves a read in flight alone: the snapshot of a read needs an idle port (R70). -/
theorem OpEffect.portC_of_copy {s t : State} {i : Instr} {l : ReadLatch} (h : OpEffect s i t)
    (hc : s.portC = .copy l) : t.portC = .copy l := by
  cases h with
  | cSnap _ hidle =>
    rw [hc] at hidle
    cases hidle
  | _ => exact hc

theorem EventEffect.portP_of_copy {s t : State} {e : Event} {l : WriteLatch} (h : EventEffect s e t)
    (he : e.leavesWrite = true) (hp : s.portP = .copy l) : t.portP = .copy l := by
  cases h with
  | op _ ho => exact ho.portP_of_copy hp
  | refused | cIdle | cCopy | cCommit => exact hp
  | pIdle | pCopy | pCommit | reset => cases he

theorem EventEffect.portC_of_copy {s t : State} {e : Event} {l : ReadLatch} (h : EventEffect s e t)
    (he : e.leavesRead = true) (hc : s.portC = .copy l) : t.portC = .copy l := by
  cases h with
  | op _ ho => exact ho.portC_of_copy hc
  | refused | pIdle | pCopy | pCommit => exact hc
  | cIdle | cCopy | cCommit | reset => cases he

/-- Settles O32: no effect of another agent's event or of a request touches the latches. -/
theorem inFlightLatchesFixed : Obligations.InFlightLatchesFixed := by
  unfold Obligations.InFlightLatchesFixed
  exact ⟨fun s t e rest l hs he hp h => (step_effect hs h).portP_of_copy he hp,
    fun s t e rest l hs he hc h => (step_effect hs h).portC_of_copy he hc⟩

end Sys2Proof.Machine
end

section
/-! SUPPORT. A whole write and a whole read with their steps consecutive (R65, R69, R126). `State.writeDone` and
`State.readDone` say what is left to happen to an operation in flight: a copy step leaves them as they are, and the
commit reaches them, so a run of the agent's own steps ends in them. -/

namespace Sys2Proof.Machine

theorem State.RingInv.withAgenda {s : State} {r : RingRegs} (h : s.RingInv r) (es : List Event) :
    (s.withAgenda es).RingInv r :=
  ⟨h.hasRing, h.sound, h.store, h.write, h.read⟩

/-- Setting a port to the phase it has changes nothing. -/
theorem State.setPortP_eq_self {s : State} {ph : WritePhase} (h : s.portP = ph) : s.setPortP ph = s := by
  rw [← h]
  rfl

theorem State.setPortC_eq_self {s : State} {ph : ReadPhase} (h : s.portC = ph) : s.setPortC ph = s := by
  rw [← h]
  rfl

/-! ## The end of a write -/

theorem wellFormed_rbWrite {idxW len : Nat} {data : List Byte} :
    Instr.wellFormed idxW (.rbWrite len data) = true ↔ len < 2 ^ idxW ∧ data.length = len := by
  simp [Instr.wellFormed, fitsIndex]

/-- The latches of a write at its snapshot (R66). -/
def WriteLatch.snapshot (len : Nat) (data : List Byte) (free : Nat) : WriteLatch :=
  ⟨len, data, acceptCount len free, 0⟩

/-- `s` after the copies that are left to the write `l` in flight, and its commit (R67, R68). -/
def State.writeDone (s : State) (r : RingRegs) (l : WriteLatch) : State :=
  (((s.setStore (writeCells r.cap (r.wr + l.i) ((l.data.take l.n).drop l.i) s.store)).bookWrite
    (advanceIndex r.cap r.wr l.n) (r.free - l.n)).setPortP .idle).deliver .p (.written l.n)

/-- With no bytes left the commit is all that is left. -/
theorem State.writeDone_of_eq {s : State} {r : RingRegs} {l : WriteLatch} (heq : l.i = l.n) :
    s.writeDone r l =
      ((s.bookWrite (advanceIndex r.cap r.wr l.n) (r.free - l.n)).setPortP .idle).deliver .p (.written l.n) := by
  have hnone : (l.data.take l.n).drop l.i = [] := by simp [heq]
  rw [State.writeDone, hnone]
  rfl

/-- A copy step does the first part of what is left. -/
theorem State.writeDone_copy {s : State} {r : RingRegs} {l : WriteLatch} {b : Byte} (hlt : l.i < l.n)
    (hb : l.data[l.i]? = some b) :
    ((s.setStore (s.store.write (ea r.cap r.wr l.i) b)).setPortP (.copy { l with i := l.i + 1 })).writeDone r
      { l with i := l.i + 1 } = s.writeDone r l := by
  obtain ⟨hlen, rfl⟩ := List.getElem?_eq_some_iff.1 hb
  have hfirst : (l.data.take l.n).drop l.i = l.data[l.i] :: (l.data.take l.n).drop (l.i + 1) := by
    rw [List.drop_eq_getElem_cons (by simp; omega), List.getElem_take]
  simp only [State.writeDone, hfirst]
  rfl

section Write

variable {s : State} {r : RingRegs} {rest : List Event}

/-- Agent P's step with bytes left. -/
theorem State.RingInv.step_pCopy (h : s.RingInv r) {l : WriteLatch} {b : Byte} (hp : s.portP = .copy l)
    (hlt : l.i < l.n) (hb : l.data[l.i]? = some b) (hs : s.agenda = .advance .p :: rest) :
    step s = .next (((s.withAgenda rest).setStore (s.store.write (ea r.cap r.wr l.i) b)).setPortP
      (.copy { l with i := l.i + 1 })) := by
  obtain ⟨hi, hcap, hwr, -, -⟩ := h.hasRing
  rw [step_of_agenda hs]
  exact advanceP_copy (s := s.withAgenda rest) hi hp hlt hcap h.sound.cap_pos hwr hb

/-- Agent P's step with no bytes left. -/
theorem State.RingInv.step_pCommit (h : s.RingInv r) {l : WriteLatch} (hp : s.portP = .copy l) (heq : l.i = l.n)
    (hs : s.agenda = .advance .p :: rest) : step s = .next ((s.withAgenda rest).writeDone r l) := by
  obtain ⟨-, hcap, hwr, -, hfree⟩ := h.hasRing
  obtain ⟨-, hn, -⟩ := h.write_copy hp
  rw [step_of_agenda hs, State.writeDone_of_eq heq]
  exact advanceP_commit (s := s.withAgenda rest) hp heq hcap hwr hfree hn

/-- The next byte of a write in flight is one of its data bytes (INV5). -/
theorem State.RingInv.write_byte (h : s.RingInv r) {l : WriteLatch} (hp : s.portP = .copy l) (hlt : l.i < l.n) :
    ∃ b, l.data[l.i]? = some b := by
  obtain ⟨-, -, hnlen, -, hdata, -⟩ := h.write_copy hp
  exact ⟨_, List.getElem?_eq_getElem (by omega)⟩

/-- Agent P's own steps end the write in flight: `m` copies and the commit. -/
theorem State.RingInv.run_write (h : s.RingInv r) {l : WriteLatch} {m : Nat} (hp : s.portP = .copy l)
    (hm : l.i + m = l.n) (hs : s.agenda = List.replicate (m + 1) (.advance .p) ++ rest) :
    Sys2Proof.core.run (m + 1) s = .next ((s.withAgenda rest).writeDone r l) := by
  induction m generalizing s l with
  | zero => exact run_of_step (h.step_pCommit hp hm hs)
  | succ m ih =>
    have hlt : l.i < l.n := by omega
    obtain ⟨b, hb⟩ := h.write_byte hp hlt
    have hm' : l.i + 1 + m = l.n := by omega
    have hinv := h.withAgenda (List.replicate (m + 1) (.advance .p) ++ rest)
    calc Sys2Proof.core.run (m + 1 + 1) s
        = Sys2Proof.core.run (m + 1) _ := run_of_step (h.step_pCopy hp hlt hb hs)
      _ = .next _ := ih (hinv.pCopy hp hlt hb) rfl hm' rfl
      _ = .next ((s.withAgenda rest).writeDone r l) :=
        congrArg _ (State.writeDone_copy (s := s.withAgenda rest) hlt hb)

/-- A write in flight appends its bytes to the queue (R32). -/
theorem State.RingInv.queue_writeDone (h : s.RingInv r) {l : WriteLatch} (hp : s.portP = .copy l) :
    (s.writeDone r l).queue = s.queue ++ l.data.take l.n := by
  obtain ⟨hin, -⟩ := h.write_copy hp
  obtain ⟨m, hm⟩ := Nat.exists_eq_add_of_le hin
  induction m generalizing s l with
  | zero =>
    rw [State.writeDone_of_eq hm.symm]
    exact h.queue_pCommit hp hm.symm
  | succ m ih =>
    have hlt : l.i < l.n := by omega
    obtain ⟨b, hb⟩ := h.write_byte hp hlt
    rw [← State.writeDone_copy hlt hb, ih (h.pCopy hp hlt hb) rfl hlt (by simp only; omega), h.queue_pCopy hp hlt hb]

/-- The request line of a whole write: the snapshot of an idle port, then the agent's own steps. -/
theorem State.RingInv.run_writeLine (h : s.RingInv r) {len : Nat} {data : List Byte} (hp : s.portP = .idle)
    (hwf : Instr.wellFormed s.idxW (.rbWrite len data) = true)
    (hs : s.agenda = writeLine len data (acceptCount len r.free) ++ rest) :
    Sys2Proof.core.run (acceptCount len r.free + 2) s =
      .next ((s.withAgenda rest).writeDone r (.snapshot len data r.free)) := by
  obtain ⟨hi, -, -, -, hfree⟩ := h.hasRing
  have hsnap := step_requestOf hs hwf (pSnap_of_idle (s := s.withAgenda _) hi hp hfree)
  obtain ⟨hlen, hdata⟩ := wellFormed_rbWrite.1 hwf
  have hinv := h.withAgenda (List.replicate (acceptCount len r.free + 1) (.advance .p) ++ rest)
  exact (run_of_step hsnap).trans ((hinv.pSnap hlen hdata).run_write rfl (Nat.zero_add _) rfl)

/-- A whole write appends the bytes it accepts (R32). -/
theorem State.RingInv.queue_writeDone_snapshot (h : s.RingInv r) {len : Nat} {data : List Byte}
    (hwf : Instr.wellFormed s.idxW (.rbWrite len data) = true) :
    (s.writeDone r (.snapshot len data r.free)).queue = s.queue ++ data.take (acceptCount len r.free) := by
  obtain ⟨hlen, hdata⟩ := wellFormed_rbWrite.1 hwf
  exact (h.pSnap hlen hdata).queue_writeDone rfl

end Write

/-- Settles O27: the snapshot and `writeDone` of its latches, written out. -/
theorem wholeWriteNetEffect : Obligations.WholeWriteNetEffect := by
  unfold Obligations.WholeWriteNetEffect
  intro s r len data rest hs hring hp hwf hagenda
  refine ((hs.ringInv hring).run_writeLine hp hwf hagenda).trans (congrArg _ ?_)
  refine .trans ?_ (State.setPortP_eq_self (ph := .idle) ?_)
  · rfl
  · exact hp

/-! ## The end of a read -/

/-- `s` after the copies that are left to a read of `n` bytes in flight, and its commit (R71, R72). -/
def State.readDone (s : State) (r : RingRegs) (n : Nat) : State :=
  ((s.bookRead (advanceIndex r.cap r.rd n) (r.free + n)).setPortC .idle).deliver .c (.read n (s.queue.take n))

section Read

variable {s : State} {r : RingRegs} {rest : List Event}

/-- With all its bytes copied, a read holds the front of the queue (INV6). -/
theorem State.RingInv.take_read_data (h : s.RingInv r) {l : ReadLatch} (hc : s.portC = .copy l) (heq : l.i = l.n) :
    l.data.take l.n = s.queue.take l.n := by
  obtain ⟨-, -, -, -, hdata, -⟩ := h.read_copy hc
  rw [h.queue_cCommit hc heq, List.take_left' (by simp; omega)]

/-- Agent C's step with bytes left takes the byte of a used cell (R31). -/
theorem State.RingInv.step_cCopy (h : s.RingInv r) {l : ReadLatch} (hc : s.portC = .copy l) (hlt : l.i < l.n)
    (hs : s.agenda = .advance .c :: rest) :
    ∃ b, s.store.read (ea r.cap r.rd l.i) = some b ∧
      step s = .next ((s.withAgenda rest).setPortC (.copy { l with i := l.i + 1, data := l.data ++ [b] })) := by
  obtain ⟨hi, hcap, -, hrd, -⟩ := h.hasRing
  obtain ⟨-, hn, -⟩ := h.read_copy hc
  obtain ⟨hused, -⟩ := h.store
  obtain ⟨b, hb⟩ := Option.isSome_iff_exists.1 (hused l.i (hlt.trans_le hn))
  rw [step_of_agenda hs]
  exact ⟨b, hb, advanceC_copy (s := s.withAgenda rest) hi hc hlt hcap h.sound.cap_pos hrd hb⟩

/-- Agent C's step with no bytes left. -/
theorem State.RingInv.step_cCommit (h : s.RingInv r) {l : ReadLatch} (hc : s.portC = .copy l) (heq : l.i = l.n)
    (hs : s.agenda = .advance .c :: rest) : step s = .next ((s.withAgenda rest).readDone r l.n) := by
  obtain ⟨-, hcap, -, hrd, hfree⟩ := h.hasRing
  obtain ⟨-, hn, -⟩ := h.read_copy hc
  have hle : r.free + l.n ≤ r.cap := by
    have hsum := h.sound.used_add_free
    omega
  rw [step_of_agenda hs]
  refine (advanceC_commit (s := s.withAgenda rest) hc heq hcap hrd hfree hle).trans ?_
  rw [h.take_read_data hc heq]
  rfl

/-- Agent C's own steps end the read in flight: `m` copies and the commit. -/
theorem State.RingInv.run_read (h : s.RingInv r) {l : ReadLatch} {m : Nat} (hc : s.portC = .copy l)
    (hm : l.i + m = l.n) (hs : s.agenda = List.replicate (m + 1) (.advance .c) ++ rest) :
    Sys2Proof.core.run (m + 1) s = .next ((s.withAgenda rest).readDone r l.n) := by
  induction m generalizing s l with
  | zero => exact run_of_step (h.step_cCommit hc hm hs)
  | succ m ih =>
    have hlt : l.i < l.n := by omega
    obtain ⟨b, hb, hstep⟩ := h.step_cCopy hc hlt hs
    have hm' : l.i + 1 + m = l.n := by omega
    have hinv := h.withAgenda (List.replicate (m + 1) (.advance .c) ++ rest)
    have hrest := ih (hinv.cCopy hc hlt hb) rfl hm' rfl
    exact (run_of_step hstep).trans hrest

/-- A read removes its bytes from the front of the queue (R32). -/
theorem State.RingInv.queue_readDone (h : s.RingInv r) {n : Nat} (hn : n ≤ r.used) :
    (s.readDone r n).queue = s.queue.drop n := by
  obtain ⟨hi, hcap, hwr, -, -⟩ := h.hasRing
  have hring : (s.readDone r n).hasRing (r.afterRead n) := ⟨hi, hcap, hwr, rfl, rfl⟩
  have hfront : ((copyCells r.cap r.rd n).filterMap s.store.read).length = n := by
    rw [List.filterMap_length_eq_length.2, copyCells_length]
    intro a ha
    refine h.usedRegion_holds a ?_
    rw [RingRegs.usedRegion_eq_afterRead hn]
    exact List.mem_append_left _ ha
  rw [hring.queue_eq, h.hasRing.queue_eq, RingRegs.usedRegion_eq_afterRead hn, List.filterMap_append,
    List.drop_left' hfront]
  rfl

/-- The request line of a whole read: the snapshot of an idle port, then the agent's own steps. -/
theorem State.RingInv.run_readLine (h : s.RingInv r) {maxLen : Nat} (hc : s.portC = .idle)
    (hwf : Instr.wellFormed s.idxW (.rbRead maxLen) = true)
    (hs : s.agenda = readLine maxLen (deliverCount r.used maxLen) ++ rest) :
    Sys2Proof.core.run (deliverCount r.used maxLen + 2) s =
      .next ((s.withAgenda rest).readDone r (deliverCount r.used maxLen)) := by
  obtain ⟨hi, hcap, -, -, hfree⟩ := h.hasRing
  have hsnap := step_requestOf hs hwf (cSnap_of_idle (s := s.withAgenda _) hi hc hcap hfree h.free_le_cap)
  have hinv := h.withAgenda (List.replicate (deliverCount r.used maxLen + 1) (.advance .c) ++ rest)
  exact (run_of_step hsnap).trans ((hinv.cSnap (of_decide_eq_true hwf)).run_read rfl (Nat.zero_add _) rfl)

end Read

/-- Settles O28: the snapshot and `readDone` of its count, written out. -/
theorem wholeReadNetEffect : Obligations.WholeReadNetEffect := by
  unfold Obligations.WholeReadNetEffect
  intro s r maxLen rest hs hring hc hwf hagenda
  refine ((hs.ringInv hring).run_readLine hc hwf hagenda).trans (congrArg _ ?_)
  refine .trans ?_ (State.setPortC_eq_self (ph := .idle) ?_)
  · rfl
  · exact hc

end Sys2Proof.Machine
end

section
/-! SUPPORT. The buffer as a queue: without overlap (R75) and under every schedule (R77). Each step keeps the balance of
R77, that the bytes queued and then those it accepts are those it delivers and then those queued after it; a run adds
the steps up. -/

namespace Sys2Proof.Machine

/-! ## Without overlap -/

theorem queue_initBuffer (s : State) (capacity : Nat) : (s.initBuffer capacity).queue = [] := by
  simp [State.queue, copyCells]

/-- Settles O29: the whole operations by their end states, whose queues are known, and the counts by `|Q| = USED`. -/
theorem sequentialQueueLaw : Obligations.SequentialQueueLaw := by
  unfold Obligations.SequentialQueueLaw
  refine ⟨fun s capacity hp hc hcap => ?_, fun s r hs hring => ?_⟩
  · obtain ⟨-, -, -, -, -, hinit⟩ := initCreatesBufferOrFails
    exact ⟨_, hinit s capacity hp hc hcap, rfl, queue_initBuffer s capacity, rfl⟩
  · have hr := hs.ringInv hring
    obtain ⟨hi, hcap, -, -, hfree⟩ := hring
    have hsum := hr.sound.used_add_free
    have hleft : r.cap - r.used = r.free := by omega
    rw [hr.queue_length, hleft]
    refine ⟨by omega, fun len data rest hp hwf hagenda => ?_, fun maxLen rest hc hwf hagenda => ?_,
      fun q hp hc => ⟨?_, ?_⟩⟩
    · exact ⟨_, hr.run_writeLine hp hwf hagenda, rfl, (hr.withAgenda rest).queue_writeDone_snapshot hwf, rfl⟩
    · exact ⟨_, hr.run_readLine hc hwf hagenda, rfl,
        (hr.withAgenda rest).queue_readDone (Nat.min_le_left r.used maxLen), rfl⟩
    · exact execRbFree_of_ready hi (State.busyAt_eq_false.2 ⟨hp, hc⟩) hfree
    · exact execRbUsed_of_ready hi (State.busyAt_eq_false.2 ⟨hp, hc⟩) hcap hfree hr.free_le_cap

/-! ## Delivered bytes -/

/-- The bytes that one result record delivers: those of a read. -/
def Result.bytes : Result → List Byte
  | .read _ data => data
  | _ => []

@[simp] theorem deliveredBytes_append_one (ds : List Delivery) (port : Port) (x : Result) :
    deliveredBytes (ds ++ [⟨port, x⟩]) = deliveredBytes ds ++ x.bytes := by
  induction ds with
  | nil => cases x <;> simp [deliveredBytes, Result.bytes]
  | cons d ds ih =>
    obtain ⟨q, y⟩ := d
    cases y <;> simp [deliveredBytes, ih]

theorem State.deliver_deliveredBytes {s : State} {port : Port} {x : Result} (h : x.bytes = []) :
    deliveredBytes (s.deliver port x).results = deliveredBytes s.results := by
  simp [h]

/-- No request delivers the bytes of a read: its commit does (R72). -/
theorem exec_deliveredBytes {i : Instr} {s t : State} (h : exec i s = .next t) :
    deliveredBytes t.results = deliveredBytes s.results := by
  cases i with
  | rbInit storagePresent capacity =>
    obtain ⟨-, -, ⟨-, rfl⟩ | ⟨-, -, rfl⟩⟩ := execRbInit_next h
    · exact State.deliver_deliveredBytes rfl
    · exact State.deliver_deliveredBytes (s := s.initBuffer capacity) rfl
  | rbWrite len data =>
    obtain ⟨-, -, f, -, rfl⟩ := pSnap_next h
    rfl
  | rbRead maxLen =>
    obtain ⟨-, -, cap, f, -, -, -, rfl⟩ := cSnap_next h
    rfl
  | rbFree port =>
    obtain ⟨-, -, f, -, rfl⟩ := execRbFree_next h
    exact State.deliver_deliveredBytes rfl
  | rbUsed port =>
    obtain ⟨-, -, cap, f, -, -, -, rfl⟩ := execRbUsed_next h
    exact State.deliver_deliveredBytes rfl
  | crcClr =>
    cases h
    rfl
  | crcUpd b =>
    obtain ⟨c, -, rfl⟩ := execCrcUpd_next h
    rfl
  | crcFin =>
    obtain ⟨c, -, rfl⟩ := execCrcFin_next h
    exact State.deliver_deliveredBytes (s := s.setCrc _) rfl
  | pktSoh body | pktStx body =>
    obtain ⟨f, -, rfl⟩ := checkPacket_next h
    exact State.deliver_deliveredBytes (s := s.setCrc _) rfl
  | pktEot | pktAck | pktNak | pktCan | pktAbort1 | pktCrcReq | pktAbort2 =>
    cases h
    exact State.deliver_deliveredBytes rfl

theorem issue_deliveredBytes {port : Port} {r : Record} {s t : State} (h : issue port r s = .next t) :
    deliveredBytes t.results = deliveredBytes s.results := by
  obtain ⟨i, -, hexec⟩ | ⟨name, -, rfl⟩ := issue_next h
  · exact exec_deliveredBytes hexec
  · rfl

/-! ## Under every schedule -/

/-- From `s` to `t`, with `a` accepted meanwhile, the bytes queued and then `a` are the bytes delivered meanwhile and
then those still queued (R77). -/
def Balanced (s t : State) (a : List Byte) : Prop :=
  ∃ b, deliveredBytes t.results = deliveredBytes s.results ++ b ∧ s.queue ++ a = b ++ t.queue

theorem Balanced.of_eq {s t : State} (hqueue : t.queue = s.queue)
    (hresults : deliveredBytes t.results = deliveredBytes s.results) : Balanced s t [] :=
  ⟨[], by simp [hresults], by simp [hqueue]⟩

theorem Balanced.trans {s t u : State} {a a' : List Byte} (h : Balanced s t a) (h' : Balanced t u a') :
    Balanced s u (a ++ a') := by
  obtain ⟨b, hresults, hqueue⟩ := h
  obtain ⟨b', hresults', hqueue'⟩ := h'
  refine ⟨b ++ b', by rw [hresults', hresults, List.append_assoc], ?_⟩
  rw [← List.append_assoc, hqueue, List.append_assoc, hqueue', List.append_assoc]

section Accepted

variable {s : State} {rest : List Event}

theorem acceptedBy_pCommit {l : WriteLatch} (hs : s.agenda = .advance .p :: rest) (hp : s.portP = .copy l)
    (heq : l.i = l.n) : acceptedBy s = l.data.take l.n := by
  simp [acceptedBy, hs, hp, heq]

theorem acceptedBy_pCopy {l : WriteLatch} (hs : s.agenda = .advance .p :: rest) (hp : s.portP = .copy l)
    (hlt : l.i < l.n) : acceptedBy s = [] := by
  simp [acceptedBy, hs, hp, hlt.ne]

theorem acceptedBy_idle (hp : s.portP = .idle) : acceptedBy s = [] := by
  simp [acceptedBy, hp]

/-- Only agent P's step accepts bytes. -/
theorem acceptedBy_other {e : Event} (hs : s.agenda = e :: rest) (he : e ≠ .advance .p) : acceptedBy s = [] := by
  unfold acceptedBy
  split
  next hhead _ =>
    obtain ⟨rfl, -⟩ := List.cons.inj (hs.symm.trans hhead)
    exact absurd rfl he
  next => rfl

theorem acceptedBy_nil (hs : s.agenda = []) : acceptedBy s = [] := by
  simp [acceptedBy, hs]

end Accepted

section Step

variable {s t : State}

/-- A request accepts and delivers no byte and keeps the queue. -/
theorem request_balanced {port : Port} {r : Record} {rest : List Event} (hs : s.Inv)
    (hagenda : s.agenda = .request port r :: rest) (hk : (Event.request port r).keepsBuffer s = true)
    (h : step s = .next t) : Balanced s t (acceptedBy s) := by
  have hqueue : t.queue = s.queue :=
    (step_effect hagenda h).queue_eq (State.inv_withAgenda.2 hs) hk nofun nofun
  rw [step_of_agenda hagenda] at h
  rw [acceptedBy_other hagenda (by simp)]
  exact .of_eq hqueue (issue_deliveredBytes (s := s.withAgenda rest) h)

/-- Agent P's step accepts the bytes of the write it commits, which it appends to the queue. -/
theorem advanceP_balanced {rest : List Event} (hs : s.Inv) (hagenda : s.agenda = .advance .p :: rest)
    (h : step s = .next t) : Balanced s t (acceptedBy s) := by
  have heffect := step_effect hagenda h
  have hs' : (s.withAgenda rest).Inv := State.inv_withAgenda.2 hs
  have hcopied := heffect.queue_eq hs' (advance_keepsBuffer .p _)
  have hcommitted := fun l : WriteLatch => heffect.queue_of_pCommit hs' (l := l)
  cases heffect with
  | pIdle hp =>
    rw [acceptedBy_idle (s := s) hp]
    exact .of_eq rfl rfl
  | pCopy hp hlt =>
    rw [acceptedBy_pCopy hagenda hp hlt]
    refine .of_eq (hcopied (fun l _ hl => ?_) nofun) rfl
    exact WritePhase.copy.inj (hp.symm.trans hl) ▸ hlt.ne
  | pCommit hp heq =>
    rw [acceptedBy_pCommit hagenda hp heq]
    refine ⟨[], ?_, (hcommitted _ hp heq).symm⟩
    rw [List.append_nil]
    exact State.deliver_deliveredBytes (s := ((s.withAgenda rest).bookWrite _ _).setPortP _) rfl

/-- Agent C's step delivers the bytes of the read it commits, which it removes from the front of the queue. -/
theorem advanceC_balanced {rest : List Event} (hs : s.Inv) (hagenda : s.agenda = .advance .c :: rest)
    (h : step s = .next t) : Balanced s t (acceptedBy s) := by
  have heffect := step_effect hagenda h
  have hs' : (s.withAgenda rest).Inv := State.inv_withAgenda.2 hs
  have hcommitted := fun l : ReadLatch => heffect.queue_of_cCommit hs' (l := l)
  rw [acceptedBy_other hagenda (by simp)]
  cases heffect with
  | cIdle | cCopy => exact .of_eq rfl rfl
  | cCommit hc heq =>
    obtain ⟨hqueue, hresults⟩ := hcommitted _ hc heq
    refine ⟨_, ?_, (List.append_nil _).trans hqueue⟩
    rw [hresults, deliveredBytes_append_one]
    rfl

theorem step_balanced (hs : s.Inv) (hk : s.agenda.head?.all (fun e => e.keepsBuffer s) = true)
    (h : step s = .next t) : Balanced s t (acceptedBy s) := by
  obtain ⟨hagenda, rfl⟩ | ⟨e, rest, hagenda, -⟩ := step_next h
  · rw [acceptedBy_nil hagenda]
    exact .of_eq rfl rfl
  · have hk : e.keepsBuffer s = true := by simpa [hagenda] using hk
    cases e with
    | request port r => exact request_balanced hs hagenda hk h
    | advance a =>
      cases a with
      | p => exact advanceP_balanced hs hagenda h
      | c => exact advanceC_balanced hs hagenda h
    | reset => cases hk

theorem step_rbInited_eq (hk : s.agenda.head?.all (fun e => e.keepsBuffer s) = true) (h : step s = .next t) :
    t.rbInited = s.rbInited := by
  obtain ⟨-, rfl⟩ | ⟨e, rest, hagenda, -⟩ := step_next h
  · rfl
  · have hk : e.keepsBuffer s = true := by simpa [hagenda] using hk
    obtain ⟨hinited, -⟩ := (step_effect hagenda h).rbInited_rbCap_eq hk
    exact hinited

end Step

theorem run_balanced {k : Nat} {s t : State} (hs : s.Inv) (hi : s.rbInited = true) (hk : keepsBufferFor k s = true)
    (h : Sys2Proof.core.run k s = .next t) :
    Balanced s t (acceptedIn k s) ∧ t.Inv ∧ t.rbInited = true := by
  induction k generalizing s with
  | zero =>
    cases h
    exact ⟨.of_eq rfl rfl, hs, hi⟩
  | succ k ih =>
    obtain ⟨u, hstep, hrun⟩ := run_succ_next h
    simp only [keepsBufferFor, hstep, Bool.and_eq_true] at hk
    obtain ⟨hhead, hk⟩ := hk
    obtain ⟨hbalanced, hend⟩ := ih (hs.step hstep) ((step_rbInited_eq hhead hstep).trans hi) hk hrun
    simp only [acceptedIn, hstep]
    exact ⟨(step_balanced hs hhead hstep).trans hbalanced, hend⟩

/-- Settles O30: the balance of the run, with `|Q| = USED` at its end. -/
theorem fifoUnderEverySchedule : Obligations.FifoUnderEverySchedule := by
  unfold Obligations.FifoUnderEverySchedule
  intro k s t hs hi hk hrun
  obtain ⟨⟨b, hresults, hqueue⟩, ht, hti⟩ := run_balanced hs hi hk hrun
  obtain ⟨r, hr⟩ := ht.ring_of_inited hti
  refine ⟨b, r, hresults, hqueue, hr.hasRing, hr.queue_length, fun hempty => ?_⟩
  rw [hempty, List.nil_append] at hqueue
  rw [hqueue, List.length_append, hr.queue_length]
  exact ⟨List.prefix_append b t.queue, rfl⟩

end Sys2Proof.Machine
end

section
/-! SUPPORT. The streaming operations of unit CRC, one request each (R84 to R86). -/

namespace Sys2Proof.Machine

/-- A shift left, with the message bit let in at bit 0. -/
theorem shiftConcat_eq_shiftLeft_or (c : CrcWord) (m : Bool) :
    c.shiftConcat m = c <<< 1 ||| if m = true then 0x0001#16 else 0x0000#16 := by
  ext i hi
  cases i <;> cases m <;> simp [BitVec.getElem_shiftConcat]

theorem State.readAcc_of_none {s : State} (h : s.crcAcc = none) : s.readAcc = .refused .unwrittenAccumulator := by
  rw [State.readAcc, h]

theorem execCrcUpd_of_none {s : State} (h : s.crcAcc = none) (b : Byte) :
    execCrcUpd b s = .refused .unwrittenAccumulator := by
  rw [execCrcUpd, State.readAcc_of_none h]
  rfl

theorem execCrcFin_of_none {s : State} (h : s.crcAcc = none) : execCrcFin s = .refused .unwrittenAccumulator := by
  rw [execCrcFin, State.readAcc_of_none h]
  rfl

/-- Settles O38: `CRC.CLR` sets the accumulator and tests nothing. -/
theorem crcClrWritesInit : Obligations.CrcClrWritesInit :=
  ⟨rfl, fun _ => rfl⟩

/-- Settles O39: the bit step by its shift, and `CRC.UPD` by whether the accumulator holds a value. -/
theorem crcUpdFeedsOneByte : Obligations.CrcUpdFeedsOneByte := by
  unfold Obligations.CrcUpdFeedsOneByte
  refine ⟨fun c m => ?_, fun _ _ => rfl, fun s b => ⟨rfl, fun c hc => ?_, fun hs => ?_⟩⟩
  · rw [← shiftConcat_eq_shiftLeft_or]
    rfl
  · exact execCrcUpd_of_crcAcc hc b
  · exact execCrcUpd_of_none hs b

/-- Settles O40: whether the accumulator holds a value decides. -/
theorem crcFinReturnsCrc : Obligations.CrcFinReturnsCrc := by
  unfold Obligations.CrcFinReturnsCrc
  exact ⟨rfl, fun s => ⟨fun c hc => execCrcFin_of_crcAcc hc, fun hs => execCrcFin_of_none hs⟩⟩

end Sys2Proof.Machine
end

section
/-! SUPPORT. The laws of the CRC (R83, R87, R90). One bit step of R81 is linear over exclusive-or and loses nothing of
the register, since the polynomial has the constant term 1; `crcUpdate`, `crcFeed` and `crc16` take both facts over. A
register with room for a byte takes it in as it is (`crcUpdate_low`), so two bytes fed in leave themselves in
exclusive-or with the finished CRC (`crcUpdate_crcUpdate`), which gives the residue and the form without trailing
zeros. -/

namespace Sys2Proof.Machine

/-! ## Linearity -/

theorem shiftConcat_xor (c d : CrcWord) (m n : Bool) :
    (c ^^^ d).shiftConcat (m ^^ n) = c.shiftConcat m ^^^ d.shiftConcat n := by
  ext i hi
  cases i <;> simp [BitVec.getElem_shiftConcat]

/-- What the bit leaving the register adds in exclusive-or (R81): the polynomial for a 1, nothing for a 0. -/
def feedback (out : Bool) : CrcWord := if out then Config.crcPoly else 0x0000#16

theorem feedback_xor (p q : Bool) : feedback (p ^^ q) = feedback p ^^^ feedback q := by
  cases p <;> cases q <;> decide

theorem crcBit_eq_xor (c : CrcWord) (m : Bool) : crcBit c m = c.shiftConcat m ^^^ feedback (c.getLsbD 15) := by
  unfold crcBit feedback
  split
  · rfl
  · exact BitVec.xor_zero.symm

theorem crcBit_xor (c d : CrcWord) (m n : Bool) : crcBit (c ^^^ d) (m ^^ n) = crcBit c m ^^^ crcBit d n := by
  simp only [crcBit_eq_xor, shiftConcat_xor, BitVec.getLsbD_xor, feedback_xor]
  ac_rfl

theorem crcUpdate_xor (c d : CrcWord) (x y : Byte) :
    crcUpdate (c ^^^ d) (x ^^^ y) = crcUpdate c x ^^^ crcUpdate d y := by
  simp only [crcUpdate, List.foldl_cons, List.foldl_nil, BitVec.getLsbD_xor, crcBit_xor]

theorem crcFinish_xor (c d : CrcWord) : crcFinish (c ^^^ d) = crcFinish c ^^^ crcFinish d := by
  unfold crcFinish
  rw [← crcUpdate_xor, ← crcUpdate_xor]
  rfl

theorem crcFeed_xor {a b : List Byte} (h : a.length = b.length) (c d : CrcWord) :
    crcFeed (c ^^^ d) (List.zipWith (fun x y => x ^^^ y) a b) = crcFeed c a ^^^ crcFeed d b := by
  induction a generalizing b c d with
  | nil =>
    obtain rfl := List.length_eq_zero_iff.1 h.symm
    rfl
  | cons x a ih =>
    obtain ⟨y, b, rfl⟩ := List.exists_cons_of_length_eq_add_one h.symm
    simp only [List.zipWith_cons_cons, crcFeed_cons, crcUpdate_xor, ih (Nat.succ.inj h)]

/-- Settles O43: the bytes and the two trailing zero bytes are fed linearly, and the initial value is 0. -/
theorem crcIsLinear : Obligations.CrcIsLinear := by
  unfold Obligations.CrcIsLinear
  intro a b h
  calc crc16 (List.zipWith (fun x y => x ^^^ y) a b)
      = crcFinish (crcFeed Config.crcInit a ^^^ crcFeed Config.crcInit b) :=
        congrArg crcFinish (crcFeed_xor h Config.crcInit Config.crcInit)
    _ = crc16 a ^^^ crc16 b := crcFinish_xor _ _

/-! ## Zero bytes -/

theorem crcUpdate_init : crcUpdate Config.crcInit 0x00#8 = Config.crcInit := rfl

theorem crcFinish_init : crcFinish Config.crcInit = Config.crcInit := by
  rw [crcFinish, crcUpdate_init, crcUpdate_init]

theorem crcFeed_zeros (k : Nat) : crcFeed Config.crcInit (List.replicate k 0x00#8) = Config.crcInit := by
  induction k with
  | zero => rfl
  | succ k ih => rwa [List.replicate_succ, crcFeed_cons, crcUpdate_init]

theorem crc16_zeros_append (k : Nat) (d : List Byte) : crc16 (List.replicate k 0x00#8 ++ d) = crc16 d := by
  rw [crc16, crcFeed_append, crcFeed_zeros, crc16]

/-- Settles O46: a zero register stays zero under zero bytes. -/
theorem crcIgnoresLeadingZeros : Obligations.CrcIgnoresLeadingZeros := by
  unfold Obligations.CrcIgnoresLeadingZeros
  intro k d
  refine ⟨crc16_zeros_append k d, ?_⟩
  rw [crc16, crcFeed_zeros, crcFinish_init]
  rfl

/-! ## A byte into a register with room for it -/

/-- As long as the register has room for the bits left, no 1 leaves it. -/
theorem foldl_crcBit_eq_shiftConcat (b : Byte) {is : List Nat} {c : CrcWord} {k : Nat} (hk : k + is.length = 16)
    (hc : c.toNat < 2 ^ k) :
    is.foldl (fun acc i => crcBit acc (b.getLsbD i)) c = is.foldl (fun acc i => acc.shiftConcat (b.getLsbD i)) c := by
  induction is generalizing c k with
  | nil => rfl
  | cons i is ih =>
    rw [List.length_cons] at hk
    have hk15 : k ≤ 15 := by omega
    have hout : c.getLsbD 15 = false :=
      Nat.testBit_lt_two_pow (hc.trans_le (Nat.pow_le_pow_right (by decide) hk15))
    have hbit : crcBit c (b.getLsbD i) = c.shiftConcat (b.getLsbD i) := by
      rw [crcBit, hout]
      rfl
    rw [List.foldl_cons, List.foldl_cons, hbit]
    exact ih (by omega) (BitVec.toNat_shiftConcat_lt_of_lt (by omega) hc)

/-- While the high byte of the register is 0, the message byte is shifted in as it is. -/
theorem crcUpdate_low (hi lo : Byte) : crcUpdate (hi.setWidth 16) lo = hi ++ lo := by
  have hroom : (hi.setWidth 16).toNat < 2 ^ 8 := by
    rw [BitVec.toNat_setWidth_of_le (by decide)]
    exact hi.isLt
  rw [crcUpdate, foldl_crcBit_eq_shiftConcat lo rfl hroom]
  ext i hi'
  rw [BitVec.getElem_append]
  simp only [List.foldl_cons, List.foldl_nil, BitVec.getElem_shiftConcat]
  interval_cases i <;> simp

/-- A byte step adds the message byte in exclusive-or to a byte step with byte 0x00. -/
theorem crcUpdate_eq_xor (c : CrcWord) (b : Byte) : crcUpdate c b = crcUpdate c 0x00#8 ^^^ b.setWidth 16 := by
  have hbyte : crcUpdate 0x0000#16 b = b.setWidth 16 :=
    (crcUpdate_low 0x00#8 b).trans (BitVec.setWidth_eq_append (by decide : 8 ≤ 16)).symm
  calc crcUpdate c b = crcUpdate (c ^^^ 0x0000#16) (0x00#8 ^^^ b) := by rw [BitVec.xor_zero, BitVec.zero_xor]
    _ = crcUpdate c 0x00#8 ^^^ b.setWidth 16 := by rw [crcUpdate_xor, hbyte]

/-- Two byte steps add the two message bytes in exclusive-or to the finished CRC. -/
theorem crcUpdate_crcUpdate (c : CrcWord) (hi lo : Byte) :
    crcUpdate (crcUpdate c hi) lo = crcFinish c ^^^ (hi ++ lo) :=
  calc crcUpdate (crcUpdate c hi) lo
      = crcUpdate (crcUpdate c 0x00#8 ^^^ hi.setWidth 16) (0x00#8 ^^^ lo) := by
        rw [← crcUpdate_eq_xor, BitVec.zero_xor]
    _ = crcFinish c ^^^ (hi ++ lo) := by rw [crcUpdate_xor, crcUpdate_low, crcFinish]

/-- The trailer is the CRC, high byte first (R88). -/
theorem trailer_append (d : List Byte) :
    (crc16 d).extractLsb' 8 8 ++ (crc16 d).extractLsb' 0 8 = crc16 d :=
  (BitVec.extractLsb'_append_extractLsb'_eq_extractLsb' rfl).trans BitVec.extractLsb'_eq_self

/-- Settles O44: the two bytes of the trailer meet the CRC itself in exclusive-or. -/
theorem crcResidueIsZero : Obligations.CrcResidueIsZero := by
  unfold Obligations.CrcResidueIsZero
  intro d
  calc crcFeed 0x0000#16 (d ++ trailer d)
      = crc16 d ^^^ ((crc16 d).extractLsb' 8 8 ++ (crc16 d).extractLsb' 0 8) := by
        rw [crcFeed_append, trailer, crcFeed_cons, crcFeed_cons, crcFeed_nil, crcUpdate_crcUpdate]
        rfl
    _ = 0x0000#16 := by rw [trailer_append, BitVec.xor_self]

/-! ## The form without trailing zeros -/

/-- A byte step of the direct form keeps the register two zero bytes ahead of `crcUpdate`. -/
theorem crcDirectByte_crcFinish (c : CrcWord) (b : Byte) :
    crcDirectByte (crcFinish c) b = crcFinish (crcUpdate c b) :=
  calc crcDirectByte (crcFinish c) b
      = crcUpdate (crcFinish c ^^^ (b ++ 0x00#8)) 0x00#8 := rfl
    _ = crcFinish (crcUpdate c b) := by rw [← crcUpdate_crcUpdate, crcFinish]

theorem crc16Direct_eq_crc16 (d : List Byte) : crc16Direct d = crc16 d := by
  rw [crc16, crcFeed_eq_foldl, ← List.foldl_hom crcFinish crcDirectByte_crcFinish, crcFinish_init]
  rfl

theorem crcBit_false (c : CrcWord) :
    crcBit c false = if c.getLsbD 15 = true then (c <<< 1) ^^^ 0x1021#16 else c <<< 1 := by
  rw [crcBit, shiftConcat_eq_shiftLeft_or]
  simp [Config.crcPoly]

/-- Settles O42: the form written out is `crc16Direct`. -/
theorem crcDirectFormAgrees : Obligations.CrcDirectFormAgrees := by
  unfold Obligations.CrcDirectFormAgrees
  intro d
  refine ⟨?_, crc16Direct_eq_crc16 d⟩
  rw [← crc16Direct_eq_crc16]
  unfold crc16Direct crcDirectByte
  simp only [crcBit_false]

/-! ## A changed byte -/

/-- The shift loses bit 15 alone. -/
theorem eq_of_shiftConcat_eq {c d : CrcWord} {m : Bool} (h15 : c.getLsbD 15 = d.getLsbD 15)
    (h : c.shiftConcat m = d.shiftConcat m) : c = d := by
  refine BitVec.eq_of_getElem_eq fun i hi => ?_
  obtain rfl | hlt : i = 15 ∨ i + 1 < 16 := by omega
  · exact h15
  · rw [← BitVec.getElem_shiftConcat_succ (b := m) hlt, ← BitVec.getElem_shiftConcat_succ (b := m) hlt, h]

/-- Bit 0 after a bit step tells whether the polynomial was applied: its constant term is 1. -/
theorem getLsbD_zero_crcBit (c : CrcWord) (m : Bool) : (crcBit c m).getLsbD 0 = (m ^^ c.getLsbD 15) := by
  have hconst : (feedback (c.getLsbD 15)).getLsbD 0 = c.getLsbD 15 := by
    cases c.getLsbD 15 <;> rfl
  rw [crcBit_eq_xor, BitVec.getLsbD_xor, hconst, BitVec.getLsbD_shiftConcat]
  rfl

theorem crcBit_injective (m : Bool) : Function.Injective (crcBit · m) := by
  intro c d (h : crcBit c m = crcBit d m)
  have h15 : c.getLsbD 15 = d.getLsbD 15 := by
    have h0 : (m ^^ c.getLsbD 15) = (m ^^ d.getLsbD 15) := by
      rw [← getLsbD_zero_crcBit, ← getLsbD_zero_crcBit, h]
    exact Bool.xor_right_inj.1 h0
  rw [crcBit_eq_xor, crcBit_eq_xor, h15, BitVec.xor_left_inj] at h
  exact eq_of_shiftConcat_eq h15 h

theorem foldl_injective {α β : Type} {f : β → α → β} (hf : ∀ a, Function.Injective (f · a)) (l : List α) :
    Function.Injective (l.foldl f ·) := by
  induction l with
  | nil => exact Function.injective_id
  | cons a l ih => exact ih.comp (hf a)

theorem crcUpdate_injective (b : Byte) : Function.Injective (crcUpdate · b) :=
  foldl_injective (fun i => crcBit_injective (b.getLsbD i)) _

theorem crcFinish_injective : Function.Injective crcFinish :=
  (crcUpdate_injective 0x00#8).comp (crcUpdate_injective 0x00#8)

theorem crcFeed_injective (d : List Byte) : Function.Injective (crcFeed · d) := by
  simp only [crcFeed_eq_foldl]
  exact foldl_injective crcUpdate_injective d

theorem crcUpdate_byte_injective (c : CrcWord) : Function.Injective (crcUpdate c) := by
  intro x y h
  rw [crcUpdate_eq_xor, crcUpdate_eq_xor c y, BitVec.xor_right_inj] at h
  simpa using congrArg (·.setWidth 8) h

/-- Settles O45: a byte step keeps different bytes apart, and the bytes after it different registers. -/
theorem crcDetectsOneByteChange : Obligations.CrcDetectsOneByteChange := by
  unfold Obligations.CrcDetectsOneByteChange
  intro before after x y hne h
  have hfeed := crcFinish_injective h
  simp only [crcFeed_append, crcFeed_cons] at hfeed
  exact hne (crcUpdate_byte_injective _ (crcFeed_injective after hfeed))

end Sys2Proof.Machine
end

section
/-! SUPPORT. The packet check (R91 to R99). The verdict is decided once, by the sequence pair and then the trailer
(`verdictOf_eq_ite`), and `PKT.SOH` and `PKT.STX` answer a frame of their length with it (`exec_packet_of_verdict`);
each statement about a frame is then a fact about its pair or its trailer. -/

namespace Sys2Proof.Machine

/-! ## The two checks and the verdict -/

theorem seqOk_iff {f : PacketFields} : seqOk f = true ↔ f.seq.toNat + f.cseq.toNat = 0xFF :=
  decide_eq_true_iff

theorem crcOk_iff {f : PacketFields} {c : CrcWord} : crcOk f c = true ↔ c = f.crcRx :=
  decide_eq_true_iff

theorem toNat_xor_ones (x : Byte) : (x ^^^ 0xFF#8).toNat = 255 - x.toNat :=
  calc (x ^^^ 0xFF#8).toNat = (~~~x).toNat := congrArg BitVec.toNat BitVec.xor_allOnes
    _ = 255 - x.toNat := BitVec.toNat_not

/-- A pair with the sum 0xFF is a byte and its complement (R92). -/
theorem toNat_add_eq_ones_iff {x y : Byte} : x.toNat + y.toNat = 0xFF ↔ y = x ^^^ 0xFF#8 := by
  rw [← BitVec.toNat_inj, toNat_xor_ones]
  have hx := x.isLt
  omega

theorem verdictOf_eq_ite (f : PacketFields) (c : CrcWord) :
    verdictOf f c = if f.seq.toNat + f.cseq.toNat ≠ 0xFF then .rejectSeq
      else if c ≠ f.crcRx then .rejectCrc else .accept := by
  simp only [verdictOf, seqOk_iff, crcOk_iff, ite_not]

theorem verdictOf_eq_accept {f : PacketFields} {c : CrcWord} (hseq : f.seq.toNat + f.cseq.toNat = 0xFF)
    (hcrc : c = f.crcRx) : verdictOf f c = .accept := by
  rw [verdictOf_eq_ite, if_neg (not_not_intro hseq), if_neg (not_not_intro hcrc)]

theorem verdictOf_eq_rejectCrc {f : PacketFields} {c : CrcWord} (hseq : f.seq.toNat + f.cseq.toNat = 0xFF)
    (hcrc : c ≠ f.crcRx) : verdictOf f c = .rejectCrc := by
  rw [verdictOf_eq_ite, if_neg (not_not_intro hseq), if_pos hcrc]

/-- The sequence check alone decides `RejectSeq` (R97). -/
theorem verdictOf_eq_rejectSeq {f : PacketFields} {c : CrcWord} :
    verdictOf f c = .rejectSeq ↔ f.seq.toNat + f.cseq.toNat ≠ 0xFF := by
  rw [verdictOf_eq_ite]
  split
  · simp [*]
  · split <;> simp [*]

/-- Two bytes are the trailer exactly when they spell the CRC (R88, R93). -/
theorem crc16_eq_append_iff {p : List Byte} {hi lo : Byte} : crc16 p = hi ++ lo ↔ [hi, lo] = trailer p := by
  constructor
  · intro h
    rw [trailer, h, BitVec.extractLsb'_append_eq_left, BitVec.extractLsb'_append_eq_right]
  · intro h
    obtain ⟨rfl, rfl⟩ : hi = (crc16 p).extractLsb' 8 8 ∧ lo = (crc16 p).extractLsb' 0 8 := by
      simpa [trailer] using h
    exact (trailer_append p).symm

/-- Settles O50: the forms differ by arithmetic on two bytes. -/
theorem sequenceCheckForms : Obligations.SequenceCheckForms := by
  unfold Obligations.SequenceCheckForms
  intro f c
  have hseq := f.seq.isLt
  have hcseq := f.cseq.isLt
  refine ⟨seqOk_iff, seqOk_iff.trans toNat_add_eq_ones_iff, ?_, ?_,
    verdictOf_eq_rejectSeq.trans (not_congr toNat_add_eq_ones_iff)⟩
  · rw [seqOk_iff]
    omega
  · rw [seqOk_iff]
    omega

/-! ## The check of a frame -/

theorem checkPacket_of_length {n : Nat} {payload : List Byte} (h : payload.length = n) (type seq cseq hi lo : Byte)
    (s : State) :
    checkPacket type n (seq :: cseq :: (payload ++ [hi, lo])) s =
      .next ((s.setCrc (crc16 payload)).deliver .v
        (.packet (verdictOf ⟨seq, cseq, payload, hi ++ lo⟩ (crc16 payload)) seq (BitVec.ofNat 16 n))) := by
  rw [checkPacket, assemblePacket_eq_some h]

/-- A frame with fields has the length of its packet type (R59). -/
theorem length_of_assemblePacket {n : Nat} {frame : List Byte} {f : PacketFields}
    (h : assemblePacket n frame = some f) : frame.length = n + 5 := by
  unfold assemblePacket at h
  split at h
  next t seq cseq rest =>
    split at h
    next hi lo hdrop =>
      have hlen := congrArg List.length hdrop
      simp only [List.length_drop, List.length_cons, List.length_nil] at hlen ⊢
      omega
    next => cases h
  next => cases h

theorem checkPacket_of_length_ne {type : Byte} {n : Nat} {body : List Byte} (h : (type :: body).length ≠ n + 5)
    (s : State) : checkPacket type n body s = .refused .badFrameLength := by
  have hnone : assemblePacket n (type :: body) = none :=
    Option.eq_none_iff_forall_ne_some.2 fun _ hf => h (length_of_assemblePacket hf)
  rw [checkPacket, hnone]

section
variable {packet : List Byte → Instr} {n : Nat} {payload : List Byte}
  (hp : packet = Instr.pktSoh ∧ n = 128 ∨ packet = Instr.pktStx ∧ n = 1024) (hlen : payload.length = n)
include hp

theorem exec_packet_eq_checkPacket (body : List Byte) (s : State) :
    ∃ type, exec (packet body) s = checkPacket type n body s := by
  obtain ⟨rfl, rfl⟩ | ⟨rfl, rfl⟩ := hp
  · exact ⟨Config.soh, rfl⟩
  · exact ⟨Config.stx, rfl⟩

include hlen

/-- A frame of the packet's length is answered with its verdict, and the CRC of its payload stays in the accumulator
(R94, R95). -/
theorem exec_packet_of_verdict {seq cseq hi lo : Byte} {v : Verdict}
    (hv : verdictOf ⟨seq, cseq, payload, hi ++ lo⟩ (crc16 payload) = v) (s : State) :
    exec (packet (seq :: cseq :: (payload ++ [hi, lo]))) s = .next
      { s with
        crcAcc := some (crc16 payload)
        results := s.results ++ [⟨.v, .packet v seq (BitVec.ofNat 16 n)⟩] } := by
  obtain ⟨type, hexec⟩ := exec_packet_eq_checkPacket hp (seq :: cseq :: (payload ++ [hi, lo])) s
  rw [hexec, checkPacket_of_length hlen, hv]
  rfl

/-- A frame with a valid pair and its payload's trailer is accepted. -/
theorem exec_packet_accept {seq cseq : Byte} (hseq : seq.toNat + cseq.toNat = 0xFF) (s : State) :
    exec (packet (seq :: cseq :: (payload ++ trailer payload))) s = .next
      { s with
        crcAcc := some (crc16 payload)
        results := s.results ++ [⟨.v, .packet .accept seq (BitVec.ofNat 16 n)⟩] } :=
  exec_packet_of_verdict hp hlen (verdictOf_eq_accept hseq (trailer_append payload).symm) s

end

/-- Settles O47: the frame's length decides, then the verdict. -/
theorem sohCheckVerdict : Obligations.SohCheckVerdict := by
  unfold Obligations.SohCheckVerdict
  exact ⟨fun _ => rfl, ⟨rfl, rfl, rfl⟩,
    fun s _ _ _ _ _ hlen => exec_packet_of_verdict (.inl ⟨rfl, rfl⟩) hlen (verdictOf_eq_ite _ _) s,
    fun s _ hlen => checkPacket_of_length_ne hlen s⟩

/-- Settles O48: the frame's length decides, then the verdict. -/
theorem stxCheckVerdict : Obligations.StxCheckVerdict := by
  unfold Obligations.StxCheckVerdict
  exact ⟨fun _ => rfl, ⟨rfl, rfl, rfl⟩,
    fun s _ _ _ _ _ hlen => exec_packet_of_verdict (.inr ⟨rfl, rfl⟩) hlen (verdictOf_eq_ite _ _) s,
    fun s _ hlen => checkPacket_of_length_ne hlen s⟩

/-- Settles O49: the seven operations are one, `controlByte`. -/
theorem controlBytesHaveNoCheck : Obligations.ControlBytesHaveNoCheck := by
  unfold Obligations.ControlBytesHaveNoCheck
  refine ⟨rfl, rfl, rfl, rfl, rfl, rfl, rfl, rfl, fun s i hi => ?_⟩
  have hcontrol : exec i s = controlByte s := by
    simp only [List.mem_cons, List.not_mem_nil, or_false] at hi
    obtain rfl | rfl | rfl | rfl | rfl | rfl | rfl := hi <;> rfl
  exact hcontrol

/-! ## Built and damaged frames -/

/-- Settles O51: the complement makes a valid pair. -/
theorem roundTripAccepted : Obligations.RoundTripAccepted := by
  unfold Obligations.RoundTripAccepted
  intro s seq payload
  have hseq : seq.toNat + (seq ^^^ 0xFF#8).toNat = 0xFF := toNat_add_eq_ones_iff.2 rfl
  exact ⟨fun hlen => exec_packet_accept (.inl ⟨rfl, rfl⟩) hlen hseq s,
    fun hlen => exec_packet_accept (.inr ⟨rfl, rfl⟩) hlen hseq s⟩

/-- Settles O52: the CRC of a payload with one byte changed is not the one in the trailer, and a changed trailer is not
the CRC. -/
theorem damagedPayloadOrTrailerRejected : Obligations.DamagedPayloadOrTrailerRejected := by
  unfold Obligations.DamagedPayloadOrTrailerRejected
  intro s packet n seq before after x y hi lo hp hlen
  have hseq : seq.toNat + (seq ^^^ 0xFF#8).toNat = 0xFF := toNat_add_eq_ones_iff.2 rfl
  refine ⟨fun hne => ?_, fun hne => ?_⟩
  · have hlen' : (before ++ y :: after).length = n := by simpa using hlen
    have hcrc : crc16 (before ++ y :: after) ≠ crc16 (before ++ x :: after) :=
      crcDetectsOneByteChange before after y x hne.symm
    rw [← trailer_append (before ++ x :: after)] at hcrc
    exact exec_packet_of_verdict hp hlen' (verdictOf_eq_rejectCrc hseq hcrc) s
  · exact exec_packet_of_verdict hp hlen (verdictOf_eq_rejectCrc hseq (mt crc16_eq_append_iff.1 hne)) s

/-- Settles O53: each byte of a valid pair fixes the other, and the complement goes along with flipped bits. -/
theorem damagedSequenceRejected : Obligations.DamagedSequenceRejected := by
  unfold Obligations.DamagedSequenceRejected
  intro s packet n seq cseq seq' cseq' m hi lo payload hp hlen hseq
  refine ⟨fun hne => ?_, fun hne => ?_, ?_, fun hm => ?_⟩
  · have hsum : seq'.toNat + cseq.toNat ≠ 0xFF := by
      have := BitVec.toNat_ne_iff_ne.2 hne
      omega
    exact exec_packet_of_verdict hp hlen (verdictOf_eq_rejectSeq.2 hsum) s
  · have hsum : seq.toNat + cseq'.toNat ≠ 0xFF := by
      have := BitVec.toNat_ne_iff_ne.2 hne
      omega
    exact exec_packet_of_verdict hp hlen (verdictOf_eq_rejectSeq.2 hsum) s
  · have hflip : (seq ^^^ m).toNat + (cseq ^^^ m).toNat = 0xFF := by
      rw [toNat_add_eq_ones_iff, toNat_add_eq_ones_iff.1 hseq, BitVec.xor_assoc, BitVec.xor_assoc,
        BitVec.xor_comm m]
    exact exec_packet_accept hp hlen hflip s
  · exact fun h => hm ((BitVec.xor_right_inj seq).1 (h.trans BitVec.xor_zero.symm))

end Sys2Proof.Machine
end

section
/-! SUPPORT. Completion of an operation in flight by its own agent (R126), and reset (R114, R115). -/

namespace Sys2Proof.Machine

/-! ## Completion -/

/-- INV5 gives the ring registers and `P_I ≤ P_N`, so the agent's steps run to `writeDone`. -/
theorem State.Inv.run_write {s : State} {l : WriteLatch} {rest : List Event} (h : s.Inv) (hp : s.portP = .copy l)
    (hs : s.agenda = List.replicate (l.n - l.i + 1) (.advance .p) ++ rest) :
    ∃ r, Sys2Proof.core.run (l.n - l.i + 1) s = .next ((s.withAgenda rest).writeDone r l) := by
  obtain ⟨r, hr⟩ := h.ring_of_write hp
  obtain ⟨hin, -⟩ := hr.write_copy hp
  exact ⟨r, hr.run_write hp (Nat.add_sub_of_le hin) hs⟩

/-- INV6 gives the ring registers and `C_I ≤ C_N`, so the agent's steps run to `readDone`. -/
theorem State.Inv.run_read {s : State} {l : ReadLatch} {rest : List Event} (h : s.Inv) (hc : s.portC = .copy l)
    (hs : s.agenda = List.replicate (l.n - l.i + 1) (.advance .c) ++ rest) :
    ∃ r, Sys2Proof.core.run (l.n - l.i + 1) s = .next ((s.withAgenda rest).readDone r l.n) := by
  obtain ⟨r, hr⟩ := h.ring_of_read hc
  obtain ⟨hin, -⟩ := hr.read_copy hc
  exact ⟨r, hr.run_read hc (Nat.add_sub_of_le hin) hs⟩

/-- Settles O33: the copies left and the commit end in `writeDone` or `readDone`, whose fields are read off. -/
theorem ownStepsCompleteOperation : Obligations.OwnStepsCompleteOperation := by
  unfold Obligations.OwnStepsCompleteOperation
  refine ⟨fun s l rest hs hp hagenda => ?_, fun s l rest hs hc hagenda => ?_⟩
  · obtain ⟨r, hrun⟩ := hs.run_write hp hagenda
    exact ⟨_, hrun, rfl, rfl, rfl, rfl⟩
  · obtain ⟨r, hrun⟩ := hs.run_read hc hagenda
    exact ⟨_, hrun, rfl, rfl, rfl, rfl⟩

/-! ## Reset -/

/-- Reset takes the buffer and both operations in flight away (R30, R114). -/
theorem State.noRing_resetBlock (s : State) : s.resetBlock.noRing := by
  simp [State.noRing]

/-- Settles O10: the reset event's step is `resetBlock`, whose store is empty and which delivers nothing. -/
theorem resetEventAbandonsEverything : Obligations.ResetEventAbandonsEverything := by
  unfold Obligations.ResetEventAbandonsEverything
  intro s rest hagenda
  have hstep : step s = .next (s.withAgenda rest).resetBlock := step_of_agenda hagenda
  exact ⟨_, hstep, State.noRing_resetBlock _, Memory.read_nil, rfl, rfl⟩

end Sys2Proof.Machine
end

section
/-! SUPPORT. What a step does with the next event, and that it goes on (R9, R104, R109, R126). An operation answers a
next state or a refusal of R109 (`exec_goesOn`), which `settle` turns into a next state; INV5 and INV6 make every step
of an operation in flight possible. What is left to stop a step is a request that is no record of the spec. -/

namespace Sys2Proof.Machine

/-! ## The step, event by event -/

theorem step_of_nil {s : State} (hs : s.agenda = []) : step s = .next s := by
  simp [step, takeStep, hs]

theorem advanceP_idle {s : State} (hp : s.portP = .idle) : advanceP s = .next s := by
  rw [advanceP, hp]

theorem advanceC_idle {s : State} (hc : s.portC = .idle) : advanceC s = .next s := by
  rw [advanceC, hc]

/-- A request that decodes to no operation is settled with the refusal of its rejection (R61). -/
theorem issue_of_decode_error {port : Port} {r : Record} {e : Reject} {s : State}
    (h : decode s.idxW port r = .error e) : issue port r s = settle port s (.refused (rejectRefusal e)) := by
  simp [issue, h]

/-- A refusal of R109 becomes a mark. -/
theorem settle_refused {n : Refusal} (hn : n.ofSpec = true) (port : Port) (s : State) :
    settle port s (.refused n) = .next (s.mark port n) :=
  settle_eq_next.2 (.inr ⟨n, rfl, hn, rfl⟩)

theorem ofSpec_of_mem :
    ∀ n ∈ [Refusal.useBeforeInit, .initWhileBusy, .portBusy, .invalidOp, .badFrameLength, .unwrittenAccumulator],
      n.ofSpec = true := by
  decide

section Request

variable {s : State} {port : Port} {r : Record} {rest : List Event} (hs : s.agenda = .request port r :: rest)

include hs

theorem step_of_decode {i : Instr} (hi : decode s.idxW port r = .ok i) :
    step s = settle port (s.withAgenda rest) (exec i (s.withAgenda rest)) :=
  (step_of_agenda hs).trans (issue_of_decode hi)

theorem step_of_decode_error {e : Reject} (he : decode s.idxW port r = .error e) :
    step s = settle port (s.withAgenda rest) (.refused (rejectRefusal e)) :=
  (step_of_agenda hs).trans (issue_of_decode_error he)

theorem step_of_invalidOp (he : decode s.idxW port r = .error .invalidOp) :
    step s = .next ((s.withAgenda rest).mark port .invalidOp) :=
  (step_of_decode_error hs he).trans (settle_refused rfl port _)

end Request

/-- Settles O6: the first event of the schedule decides. -/
theorem stepRunsNextEvent : Obligations.StepRunsNextEvent := by
  unfold Obligations.StepRunsNextEvent
  exact ⟨fun s port r rest i hs hi => step_of_decode hs hi, fun s rest hs => step_of_agenda hs,
    fun s rest hs => step_of_agenda hs, fun s rest hs => step_of_agenda hs, fun s hs => step_of_nil hs⟩

/-- Settles O5: the byte has no row at the port, so decoding rejects the record as `invalidOp`. -/
theorem unacceptedByteRefused : Obligations.UnacceptedByteRefused := by
  unfold Obligations.UnacceptedByteRefused
  intro s port r rest hs hop
  exact step_of_invalidOp hs (decode_eq_invalidOp_iff.2 (lookupOp_eq_none_iff.2 hop))

/-- Settles O7: `settle` turns the operation's refusal into a mark. -/
theorem refusedRequestChangesNothing : Obligations.RefusedRequestChangesNothing := by
  unfold Obligations.RefusedRequestChangesNothing
  intro s port r rest i name hs hi hexec hname
  calc step s = settle port (s.withAgenda rest) (exec i (s.withAgenda rest)) := step_of_decode hs hi
    _ = settle port (s.withAgenda rest) (.refused name) := congrArg _ hexec
    _ = .next ((s.withAgenda rest).mark port name) := settle_refused (ofSpec_of_mem name hname) port _

/-! ## Operations go on -/

/-- An outcome after which the run goes on: a next state, or a refusal of R109, which leaves its mark. -/
def GoesOn (o : Res State) : Prop := (∃ t, o = .next t) ∨ ∃ n : Refusal, o = .refused n ∧ n.ofSpec = true

theorem GoesOn.settle {o : Res State} (h : GoesOn o) (port : Port) (s : State) :
    ∃ t, Machine.settle port s o = .next t := by
  obtain ⟨t, rfl⟩ | ⟨n, rfl, hn⟩ := h
  · exact ⟨t, rfl⟩
  · exact ⟨_, settle_refused hn port s⟩

/-- A data or status request goes on if it does where its two conditions hold. -/
theorem request_goesOn {s : State} {q : RbPort} {k : Res State}
    (h : s.rbInited = true → s.busyAt q = false →
      ∃ t, (andThen (requireInit s) fun _ => andThen (requirePortIdle q s) fun _ => k) = .next t) :
    GoesOn (andThen (requireInit s) fun _ => andThen (requirePortIdle q s) fun _ => k) := by
  cases hi : s.rbInited with
  | false => exact .inr ⟨_, request_useBeforeInit hi k, rfl⟩
  | true =>
    cases hq : s.busyAt q with
    | true => exact .inr ⟨_, request_portBusy hi hq k, rfl⟩
    | false => exact .inl (h hi hq)

theorem execRbInit_goesOn (storagePresent : Bool) (capacity : Nat) (s : State) :
    GoesOn (execRbInit storagePresent capacity s) := by
  unfold execRbInit requireBothIdle
  split
  · exact .inr ⟨.initWhileBusy, rfl, rfl⟩
  · rw [andThen_next]
    split
    · exact .inl ⟨_, rfl⟩
    · exact .inl ⟨_, rfl⟩

theorem checkPacket_goesOn (type : Byte) (n : Nat) (body : List Byte) (s : State) :
    GoesOn (checkPacket type n body s) := by
  unfold checkPacket
  split
  · exact .inr ⟨.badFrameLength, rfl, rfl⟩
  · exact .inl ⟨_, rfl⟩

/-- Where a buffer exists its registers hold values and its free count is at most its capacity, so no operation reads
what holds no value or leaves the range of a count (R24, R30, R78). -/
theorem exec_goesOn {s : State} (hs : s.Inv) (i : Instr) : GoesOn (exec i s) := by
  cases i with
  | rbInit storagePresent capacity => exact execRbInit_goesOn storagePresent capacity s
  | rbWrite len data =>
    refine request_goesOn fun hi hq => ?_
    obtain ⟨r, ⟨-, -, -, -, hfree⟩, -⟩ := hs.ring_of_inited hi
    exact ⟨_, pSnap_of_idle hi (State.busyP_eq_false.1 hq) hfree⟩
  | rbRead maxLen =>
    refine request_goesOn fun hi hq => ?_
    obtain ⟨r, hr⟩ := hs.ring_of_inited hi
    obtain ⟨-, hcap, -, -, hfree⟩ := hr.hasRing
    exact ⟨_, cSnap_of_idle hi (State.busyC_eq_false.1 hq) hcap hfree hr.free_le_cap⟩
  | rbFree q =>
    refine request_goesOn fun hi hq => ?_
    obtain ⟨r, ⟨-, -, -, -, hfree⟩, -⟩ := hs.ring_of_inited hi
    exact ⟨_, execRbFree_of_ready hi hq hfree⟩
  | rbUsed q =>
    refine request_goesOn fun hi hq => ?_
    obtain ⟨r, hr⟩ := hs.ring_of_inited hi
    obtain ⟨-, hcap, -, -, hfree⟩ := hr.hasRing
    exact ⟨_, execRbUsed_of_ready hi hq hcap hfree hr.free_le_cap⟩
  | crcUpd b =>
    cases hacc : s.crcAcc with
    | none => exact .inr ⟨_, execCrcUpd_of_none hacc b, rfl⟩
    | some c => exact .inl ⟨_, execCrcUpd_of_crcAcc hacc b⟩
  | crcFin =>
    cases hacc : s.crcAcc with
    | none => exact .inr ⟨_, execCrcFin_of_none hacc, rfl⟩
    | some c => exact .inl ⟨_, execCrcFin_of_crcAcc hacc⟩
  | pktSoh body | pktStx body => exact checkPacket_goesOn _ _ body s
  | crcClr | pktEot | pktAck | pktNak | pktCan | pktAbort1 | pktCrcReq | pktAbort2 => exact .inl ⟨_, rfl⟩

/-! ## Every step goes on -/

/-- Agent P's step is possible: its next byte is one of its data bytes, and the bytes it accepted are free (INV5). -/
theorem State.Inv.step_advanceP {s : State} {rest : List Event} (hs : s.Inv)
    (hagenda : s.agenda = .advance .p :: rest) : ∃ t, Machine.step s = .next t := by
  cases hp : s.portP with
  | idle => exact ⟨_, (step_of_agenda hagenda).trans (advanceP_idle hp)⟩
  | copy l =>
    obtain ⟨r, hr⟩ := hs.ring_of_write hp
    obtain ⟨hin, -⟩ := hr.write_copy hp
    obtain hlt | heq := Nat.lt_or_eq_of_le hin
    · obtain ⟨b, hb⟩ := hr.write_byte hp hlt
      exact ⟨_, hr.step_pCopy hp hlt hb hagenda⟩
    · exact ⟨_, hr.step_pCommit hp heq hagenda⟩

/-- Agent C's step is possible: the bytes it delivers lie in the used region, whose cells hold values (INV6, R31). -/
theorem State.Inv.step_advanceC {s : State} {rest : List Event} (hs : s.Inv)
    (hagenda : s.agenda = .advance .c :: rest) : ∃ t, Machine.step s = .next t := by
  cases hc : s.portC with
  | idle => exact ⟨_, (step_of_agenda hagenda).trans (advanceC_idle hc)⟩
  | copy l =>
    obtain ⟨r, hr⟩ := hs.ring_of_read hc
    obtain ⟨hin, -⟩ := hr.read_copy hc
    obtain hlt | heq := Nat.lt_or_eq_of_le hin
    · obtain ⟨b, -, hstep⟩ := hr.step_cCopy hc hlt hagenda
      exact ⟨_, hstep⟩
    · exact ⟨_, hr.step_cCommit hc heq hagenda⟩

/-- Settles O8: by the next event of the schedule; a request goes on unless its record is malformed. -/
theorem stepAlwaysGoesOn : Obligations.StepAlwaysGoesOn := by
  unfold Obligations.StepAlwaysGoesOn
  intro s hs
  cases hagenda : s.agenda with
  | nil => exact .inl ⟨s, step_of_nil hagenda⟩
  | cons e rest =>
    cases e with
    | request port r =>
      cases hd : decode s.idxW port r with
      | ok i =>
        rw [step_of_decode hagenda hd]
        exact .inl ((exec_goesOn (State.inv_withAgenda.2 hs) i).settle port _)
      | error x =>
        cases x with
        | invalidOp => exact .inl ⟨_, step_of_invalidOp hagenda hd⟩
        | malformedRecord => exact .inr ⟨step_of_decode_error hagenda hd, port, r, rest, rfl, hd⟩
    | advance a =>
      cases a with
      | p => exact .inl (hs.step_advanceP hagenda)
      | c => exact .inl (hs.step_advanceC hagenda)
    | reset => exact .inl ⟨_, step_of_agenda hagenda⟩

end Sys2Proof.Machine
end

section
/-! SUPPORT. The store's canonical form through every effect, the two commits in either order (R125), what the
operations of unit CRC leave alone, and the reset state (R30). -/

namespace Sys2Proof.Machine

/-! ## The canonical form of the store -/

/-- An operation keeps the store or, as a successful `RB.INIT`, empties it (R64). -/
theorem OpEffect.storeWf {s t : State} {i : Instr} (h : OpEffect s i t) (hs : s.store.wf = true) :
    t.store.wf = true := by
  cases h with
  | init => rfl
  | _ => exact hs

theorem EventEffect.storeWf {s t : State} {e : Event} (h : EventEffect s e t) (hs : s.store.wf = true) :
    t.store.wf = true := by
  cases h with
  | op _ ho => exact ho.storeWf hs
  | pCopy => exact Memory.write_wf hs _ _
  | reset => rfl
  | refused | pIdle | cIdle | pCommit | cCopy | cCommit => exact hs

/-- Settles O13: no effect but a write copy, `RB.INIT` and reset changes the store, and each of them keeps the form. -/
theorem stepKeepsStoreCanonical : Obligations.StepKeepsStoreCanonical := by
  unfold Obligations.StepKeepsStoreCanonical
  intro s t hs hstep
  obtain ⟨-, rfl⟩ | ⟨e, rest, -, htake⟩ := step_next hstep
  · exact hs
  · exact (takeEvent_effect htake).storeWf hs

/-! ## Two commits -/

theorem run_two {s t u : State} (hs : step s = .next t) (ht : step t = .next u) :
    Sys2Proof.core.run 2 s = .next u :=
  (run_of_step hs).trans (run_of_step ht)

/-- Settles O34: each commit advances its own index and takes or gives its own count, and `RB_FREE - P_N + C_N` is the
same in either order since `P_N ≤ RB_FREE` (INV5). -/
theorem commitsCommute : Obligations.CommitsCommute := by
  unfold Obligations.CommitsCommute
  intro s lp lc rest hs hp hpn hc hcn
  obtain ⟨r, hr⟩ := hs.ring_of_write hp
  obtain ⟨-, hcap, hwr, hrd, hfree⟩ := hr.hasRing
  obtain ⟨-, hnp, -⟩ := hr.write_copy hp
  obtain ⟨-, hnc, -⟩ := hr.read_copy hc
  have hsum := hr.sound.used_add_free
  have hcount : r.free + lc.n - lp.n = r.free - lp.n + lc.n := by omega
  refine ⟨_, _,
    run_two (writeCommitStep _ _ lp r.cap r.wr r.free rfl hp hpn hcap hwr hfree hnp)
      (readCommitStep _ _ lc r.cap r.rd (r.free - lp.n) rfl hc hcn hcap hrd rfl (by omega)),
    run_two (readCommitStep _ _ lc r.cap r.rd r.free rfl hc hcn hcap hrd hfree (by omega))
      (writeCommitStep _ _ lp r.cap r.wr (r.free + lc.n) rfl hp hpn hcap hwr rfl (by omega)), ?_, ?_, ?_⟩
  · rw [hcount]
  · exact List.append_assoc _ _ _
  · exact List.append_assoc _ _ _

/-! ## What the operations of unit CRC leave alone -/

/-- Settles O55: each operation's inversion lemma writes its next state out; the control bytes deliver and do nothing
else. -/
theorem crcInstructionsFrame : Obligations.CrcInstructionsFrame := by
  unfold Obligations.CrcInstructionsFrame
  refine fun s t => ⟨fun b h => ?_, fun body h => ?_, fun i hi h => ?_⟩
  · obtain h | h := h
    · cases h
      exact ⟨rfl, fun a => rfl⟩
    · obtain ⟨c, -, rfl⟩ := execCrcUpd_next h
      exact ⟨rfl, fun a => rfl⟩
  · obtain h | h | h := h
    · obtain ⟨c, -, rfl⟩ := execCrcFin_next h
      exact ⟨rfl, fun a => rfl⟩
    all_goals
      obtain ⟨f, -, rfl⟩ := checkPacket_next h
      exact ⟨rfl, fun a => rfl⟩
  · obtain ⟨-, -, -, -, -, -, -, -, hcontrol⟩ := controlBytesHaveNoCheck
    rw [hcontrol s i hi] at h
    cases h
    exact ⟨rfl, fun a => rfl⟩

/-! ## The reset state -/

/-- Settles O9: the fields of `State.reset`; an empty store has no cell that holds a value. -/
theorem resetStateHoldsNoValues : Obligations.ResetStateHoldsNoValues := by
  unfold Obligations.ResetStateHoldsNoValues
  exact ⟨rfl, rfl, rfl, rfl, rfl, rfl, rfl, Memory.read_nil, rfl⟩

end Sys2Proof.Machine
end
